-- ==== Sys2Proof/Word.lean ====
section
/-! DEFINITION. The words of the P230: bytes of the lanes, 16-bit parameter and image words, 32-bit payload words. -/

namespace Sys2Proof

/-- One byte of a lane's rebuilt stream (R1). -/
abbrev Byte := BitVec 8

/-- A 16-bit word: a directive parameter (R18), a word of a slot image (R186), a descriptor code (R66). -/
abbrev Half := BitVec 16

/-- A 32-bit word: a payload field of a note (R19), a hint sum (R45). -/
abbrev Word := BitVec 32

/-- A pair of signed integers, in quarter pixels unless a rule says otherwise (00_scope, "Quarter pixels"). -/
structure Point where
  x : Int
  y : Int
  deriving DecidableEq, Repr

end Sys2Proof
end

