-- ==== Sys2Proof/Syntax.lean ====
section
/-! DEFINITION. The commands of the block, one constructor per row of spec/opcode_table.json. -/

namespace Sys2Proof

/-- One event of the part. An inlet packet's operand is its whole body (R7); a directive's take has no operand, because
the directive taken is the one at the head of the directive queue (R167). -/
inductive Instr where
  /-- PIN_RESET (R2): the RESET line is asserted. -/
  | pinReset
  /-- RESET_RELEASE (R2, R3): RESET is deasserted, or power comes on; `modeHigh` is the level sampled on the MODE line. -/
  | resetRelease (modeHigh : Bool)
  /-- POWER_LOSS (R195): power is lost. -/
  | powerLoss
  /-- HUNT_LOCK (R6): inlet bytes examined in HUNT, up to and past a valid inlet header. -/
  | huntLock (bytes : List Byte)
  /-- SYNC_LOSS (R8): the six bytes tested as the next header in LOCKED. -/
  | syncLoss (header : List Byte)
  /-- OPEN (R48): a whole OPEN packet, by its body. -/
  | openPacket (body : List Byte)
  /-- LINE (R50): a whole LINE packet, by its body. -/
  | linePacket (body : List Byte)
  /-- SHUT (R53): a whole SHUT packet, by its body. -/
  | shutPacket (body : List Byte)
  /-- DIR (R166): a whole DIR packet, by its body. -/
  | dirPacket (body : List Byte)
  /-- OUTLET_HOLD (R14): the outlet hold line takes this level. -/
  | outletHold (asserted : Bool)
  /-- OUTLET_PACKET_COMPLETE (R15): the last byte of the packet on the outlet is sent. -/
  | outletPacketComplete
  /-- TILEEND_COMPLETE (R161): the last byte of a TILEEND is sent. -/
  | tileendComplete
  /-- STATUS taken (R174). -/
  | status
  /-- EVENT_MASK taken (R173). -/
  | eventMask
  /-- COUNTERS taken (R175). -/
  | counters
  /-- RESET_ENGINE taken (R176, R177). -/
  | resetEngine
  /-- SWEEP_ARM taken (R23 to R26). -/
  | sweepArm
  /-- SWEEP_END taken (R33). -/
  | sweepEnd
  /-- SWEEP_ABORT taken (R37). -/
  | sweepAbort
  /-- SWEEP_RELEASE taken (R39). -/
  | sweepRelease
  /-- GRANT taken (R155). -/
  | grant
  /-- TABLE_PAGE taken (R181 to R185). -/
  | tablePage
  /-- PROFILE_RECALL taken (R194). -/
  | profileRecall
  /-- PROFILE_ERASE taken (R188). -/
  | profileErase
  /-- PROFILE_WRITE taken (R189). -/
  | profileWrite
  /-- PROFILE_VERIFY taken (R190). -/
  | profileVerify
  /-- PROFILE_BLANK_CHECK taken (R191). -/
  | profileBlankCheck
  /-- PROFILE_PROTECT taken (R193). -/
  | profileProtect
  /-- PROFILE_ERASE_ALL taken (R192). -/
  | profileEraseAll
  /-- PROFILE_DEFAULT taken (R193). -/
  | profileDefault
  /-- PROFILE_INFO taken (R193). -/
  | profileInfo
  /-- A directive of an unlisted code taken (R167). -/
  | unknownDirective
  /-- PROFILE_ERASE completes (R188). -/
  | profileEraseComplete
  /-- PROFILE_WRITE completes (R189). -/
  | profileWriteComplete
  /-- PROFILE_VERIFY completes (R190). -/
  | profileVerifyComplete
  /-- PROFILE_BLANK_CHECK completes (R191). -/
  | profileBlankCheckComplete
  /-- A stage of PROFILE_ERASE_ALL ends (R192). -/
  | eraseAllStageEnd
  /-- The registration engine takes a READY frame (R100). -/
  | registrationTake
  /-- A registration completes (R103). -/
  | registrationComplete
  /-- Placement's event (R128). -/
  | placement
  /-- The compositor takes the head entry (R139). -/
  | compositeTake
  /-- A composite completes (R140). -/
  | compositeComplete
  /-- The emitter takes a run (R157). -/
  | tileRunTake
  deriving DecidableEq, Repr

end Sys2Proof
end

