-- ==== Sys2Proof/Decode.lean ====
section
/-! DEFINITION. The command that a word spells by the opcode table's bits: none, because the table gives bits to no row. -/

namespace Sys2Proof

/-- spec/opcode_table.json gives no row any bits (every row's "fields" is empty, no row has "fixed"), so no word spells a
command. The commands are events, told apart by their occurrence and not by an encoding. -/
def decodeTableWord (_nbits _w : Nat) : Option Instr := none

end Sys2Proof
end

