-- ==== Sys2Proof/Machine/State.lean ====
section
/-! DEFINITION. The state of the part, block by block, as plain data, and the state after reset. -/

namespace Sys2Proof.Machine

/-! ### Lanes, inlet receiver, forward queue, outlet (chapter 1) -/

/-- Whether the part runs. `inReset`: RESET asserted (R2). `off`: power lost (R195). -/
inductive Power where
  | running | inReset | off
  deriving DecidableEq, Repr

/-- The sampled MODE (R3). -/
inductive Mode where
  | normal | service
  deriving DecidableEq, Repr

/-- The packet kinds of R5. -/
inductive PacketKind where
  | openKind | lineKind | shutKind | dirKind | noteKind | tileHead | tileRow | tileEnd
  deriving DecidableEq, Repr

/-- A whole packet: its kind and its body. The header follows from the two (R4). -/
structure Packet where
  kind : PacketKind
  body : List Byte
  deriving DecidableEq, Repr

/-- The packet being received in LOCKED: kind, body length and body bytes so far (section 1.3). -/
structure CurrentPacket where
  kind     : PacketKind
  length   : Nat
  received : List Byte
  deriving DecidableEq, Repr

/-- The framing state (R6, R7). `hunt` keeps the bytes of the search not yet discarded; `locked none` waits for the next
header. -/
inductive Framing where
  | hunt (unexamined : List Byte)
  | locked (current : Option CurrentPacket)
  deriving DecidableEq, Repr

/-- The inlet receiver; `lane` is the data lane, 0 or 1, that carries the next byte (R1). -/
structure Inlet where
  framing : Framing
  lane    : Nat
  deriving DecidableEq, Repr

/-- The three claimants of the outlet (R12). -/
inductive Claimant where
  | forward | note | tile
  deriving DecidableEq, Repr

/-- The packet on the outlet. `orphan`: the source entry was discarded while the packet is sent (R15). -/
structure Sending where
  claimant : Claimant
  packet   : Packet
  orphan   : Bool
  deriving DecidableEq, Repr

/-- The outlet arbiter (section 1.5); `lane` is the data lane, 0..3, that carries the next byte (R1). -/
structure Outlet where
  sending : Option Sending
  lane    : Nat
  deriving DecidableEq, Repr

/-! ### Detection and capture (chapters 3 and 4) -/

/-- R63, R64. -/
inductive Polarity where
  | bright | dark
  deriving DecidableEq, Repr

/-- A candidate of the detector, with its descriptor (R65, R66). -/
structure Candidate where
  x        : Nat
  y        : Nat
  polarity : Polarity
  strength : Nat
  ring     : Half
  chord    : Half
  deriving DecidableEq, Repr

/-- The hold between a candidate and an anchor: the other's index, and the descriptor distance (R97, R73). -/
structure Claim where
  index    : Nat
  distance : Nat
  deriving DecidableEq, Repr

/-- A keypoint record (R73); `matched` is its match (R74). -/
structure Keypoint where
  index    : Nat
  cell     : Nat
  x        : Nat
  y        : Nat
  polarity : Polarity
  strength : Nat
  ring     : Half
  chord    : Half
  matched  : Option Claim
  deriving DecidableEq, Repr

/-- The detection context of an occupied slot (R60): working state while FILLING, the finished list from READY on. -/
inductive Detection where
  | working (rowsOffered : Nat) (pending : List Candidate) (cells : List (List Candidate)) (overflow : List Bool)
  | finished (keypoints : List Keypoint) (overflow : List Bool)
  deriving DecidableEq, Repr

/-- The states of an occupied slot (R47); FREE is the absence of a frame. -/
inductive SlotState where
  | filling | ready | registering | placed
  deriving DecidableEq, Repr

/-- The frame record of R46. -/
structure FrameRecord where
  seq      : Half
  hintX    : Word
  hintY    : Word
  broken   : Word
  exposure : Nat
  roll     : BitVec 4
  w        : Nat
  h        : Nat
  nextLine : Nat
  missing  : Nat
  repaired : Bool
  deriving DecidableEq, Repr

/-- What an occupied slot holds: its state, the frame record, the stored rows in order (R54) and the detection context. -/
structure CapturedFrame where
  state     : SlotState
  record    : FrameRecord
  luma      : List (List Byte)
  chroma    : List (List (Byte × Byte))
  detection : Detection
  deriving DecidableEq, Repr

/-- The three frame slots (R47); `none` is FREE. -/
structure FrameSlots where
  s0 : Option CapturedFrame
  s1 : Option CapturedFrame
  s2 : Option CapturedFrame
  deriving DecidableEq, Repr

/-- The capture unit (chapter 3). -/
structure Capture where
  seq    : Half
  sumX   : Word
  sumY   : Word
  broken : Word
  slots  : FrameSlots
  order  : List (Fin 3)
  deriving DecidableEq, Repr

/-! ### Registration and placement (chapters 6 and 7) -/

/-- The engine state (R100). -/
inductive EngineState where
  | waiting | matching | placing
  deriving DecidableEq, Repr

/-- An anchor (R97). -/
structure Anchor where
  ax       : Int
  ay       : Int
  polarity : Polarity
  ring     : Half
  chord    : Half
  source   : Nat
  claim    : Option Claim
  deriving DecidableEq, Repr

/-- The anchor frame header (R97). -/
structure AnchorHeader where
  hintX  : Word
  hintY  : Word
  broken : Word
  deriving DecidableEq, Repr

/-- What registration hands to placement (R120), beside the frame in work and its prediction. -/
structure Handover where
  origin  : Point
  delta   : Point
  claims  : Nat
  support : Nat
  deriving DecidableEq, Repr

/-- The registration engine (chapter 6). `votes` lists the bins row by row: bin (bx, by) is entry 32·by + bx (R114). -/
structure Registration where
  engine   : EngineState
  work     : Option (Fin 3)
  anchors  : List Anchor
  header   : AnchorHeader
  pred     : Point
  votes    : List Nat
  handover : Option Handover
  deriving DecidableEq, Repr

/-- Placement's values (R124, R125). -/
structure Placement where
  e         : Int
  e0        : Nat
  origin    : Point
  roll      : BitVec 4
  deltaLast : Point
  deriving DecidableEq, Repr

/-- A composite entry (R138). -/
structure CompositeEntry where
  slot      : Fin 3
  origin    : Point
  eOld      : Int
  band      : Nat
  eNew      : Int
  gain      : Int
  firstTile : Nat
  lastTile  : Nat
  deriving DecidableEq, Repr

/-- The compositor (chapter 7): `writing` is WRITING, else IDLE. -/
structure Compositor where
  writing : Bool
  queue   : List CompositeEntry
  deriving DecidableEq, Repr

/-! ### Tile ring and emitter (chapter 8) -/

/-- R147. -/
inductive TileState where
  | opened | sealed | emitting
  deriving DecidableEq, Repr

/-- A written column's coverage entry (R145); an unwritten column has none. -/
structure Coverage where
  top    : Nat
  bottom : Nat
  deriving DecidableEq, Repr

/-- A tile record (R147). `luma` is 64 columns of Hc rows, `chroma` 32 pair columns of Hc/2 rows of (Cb, Cr). -/
structure Tile where
  index    : Nat
  state    : TileState
  writers  : Nat
  coverage : List (Option Coverage)
  luma     : List (List Byte)
  chroma   : List (List (Byte × Byte))
  deriving DecidableEq, Repr

/-- R161. -/
inductive RunStatus where
  | complete | abandoned
  deriving DecidableEq, Repr

/-- The next packet of a run, on offer or being sent (R156). -/
inductive RunPacket where
  | head | row (r : Nat) | tileEnd
  deriving DecidableEq, Repr

/-- The run in progress (R157). -/
structure Run where
  sweepId  : Nat
  tile     : Nat
  columns  : Nat
  top      : Nat
  bottom   : Nat
  status   : RunStatus
  rowsSent : Nat
  next     : RunPacket
  deriving DecidableEq, Repr

/-- The tile ring and the emitter (chapter 8); `run = none` is the emitter IDLE. -/
structure Ring where
  tiles       : List Tile
  sealedQueue : List Nat
  crop        : Option Coverage
  credits     : Nat
  starved     : Bool
  run         : Option Run
  deriving DecidableEq, Repr

/-! ### Sweep controller (chapter 2) -/

/-- R21. -/
inductive SweepState where
  | idle | armed | tracking | coasting | draining | ended
  deriving DecidableEq, Repr

/-- R21. -/
inductive EndCause where
  | none | finished | lost | reversal | starved | drift | widthLimit | geometry | aborted
  deriving DecidableEq, Repr

/-- R23. -/
inductive Direction where
  | rightward | leftward
  deriving DecidableEq, Repr

/-- The thirteen sweep parameters, in the order of R23. -/
structure SweepParams where
  direction  : Direction
  margin     : Nat
  wmax       : Nat
  tau        : Nat
  dmax       : Nat
  early      : Nat
  rx         : Nat
  ry         : Nat
  minSupport : Nat
  aMin       : Nat
  tRev       : Nat
  coastLimit : Nat
  credits    : Nat
  deriving DecidableEq, Repr

/-- The sweep controller (section 2.1). -/
structure Sweep where
  state            : SweepState
  cause            : EndCause
  id               : Nat
  params           : SweepParams
  hc               : Nat
  coast            : Nat
  framesComposited : Nat
  tilesEmitted     : Nat
  deriving DecidableEq, Repr

/-! ### Directives, notes, counters (chapter 9) -/

/-- The directive unit (R166, R167): the bodies waiting, oldest first, and whether it is REPLY_WAITING. -/
structure DirectiveUnit where
  queue        : List (List Byte)
  replyWaiting : Bool
  deriving DecidableEq, Repr

/-- The result codes of R19. -/
inductive ResultCode where
  | done | busy | wrongState | unknown | format | range | notPermitted | isProtected | notBlank | notWritten | worn
  | invalidTable | sequence | repeated | mismatch | noTables
  deriving DecidableEq, Repr

/-- The event kinds of R19. -/
inductive EventKind where
  | sweepState | frameOutcome | creditStarved | linkSync | directiveOverrun | passthroughDrop
  deriving DecidableEq, Repr

/-- A note (R19): a reply or an event notice with its payload words. -/
inductive Note where
  | reply (tag code : Byte) (result : ResultCode) (payload : List Word)
  | event (kind : EventKind) (superseded : Nat) (payload : List Word)
  deriving DecidableEq, Repr

/-- Who made a waiting reply (R171). -/
inductive ReplySource where
  | directiveUnit | profileStore
  deriving DecidableEq, Repr

/-- A reply waiting for a note slot (R171). -/
structure WaitingReply where
  source : ReplySource
  note   : Note
  deriving DecidableEq, Repr

/-- A pending-event record (R172). -/
structure PendingRecord where
  payload    : List Word
  superseded : Nat
  deriving DecidableEq, Repr

/-- One value for each event kind. -/
structure PerKind (α : Type) where
  sweepState       : α
  frameOutcome     : α
  creditStarved    : α
  linkSync         : α
  directiveOverrun : α
  passthroughDrop  : α
  deriving DecidableEq, Repr

/-- The note unit (R170 to R172); a kind whose `unmasked` is false is MASKED. -/
structure NoteUnit where
  queue    : List Note
  replies  : List WaitingReply
  unmasked : PerKind Bool
  pending  : PerKind (Option PendingRecord)
  deriving DecidableEq, Repr

/-- The eight counters, in the order of section 9.6 (R175). -/
structure Counters where
  opensSeen           : Nat
  framesComposited    : Nat
  framesNotComposited : Nat
  tilesEmitted        : Nat
  syncLosses          : Nat
  directivesDropped   : Nat
  passthroughDrops    : Nat
  linesRepaired       : Nat
  deriving DecidableEq, Repr

/-! ### Working tables and profile store (chapter 10) -/

/-- An entry of the COLUMN_MAP (R81). -/
structure MapEntry where
  xs : Nat
  s  : Nat
  t  : Nat
  deriving DecidableEq, Repr

/-- A COLUMN_MAP's content: the four header fields and the entries (R81). -/
structure ColumnMap where
  wFor    : Nat
  hFor    : Nat
  yc      : Nat
  k       : Nat
  entries : List MapEntry
  deriving DecidableEq, Repr

/-- A FEATHER or GAIN table's content: the header count and the entries (R180). -/
structure ValueTable where
  count  : Nat
  values : List Nat
  deriving DecidableEq, Repr

/-- The table ids of R181. -/
inductive TableId where
  | columnMap | feather | gain
  deriving DecidableEq, Repr

/-- The open page assembly (R181): table id, header words, entries accepted, TOGGLE of the last page. -/
structure Assembly where
  table   : TableId
  header  : List Nat
  entries : List (List Nat)
  toggle  : Bool
  deriving DecidableEq, Repr

/-- The table unit; `none` is EMPTY for a table, closed for the assembly (R179, R181). -/
structure Tables where
  columnMap : Option ColumnMap
  feather   : Option ValueTable
  gain      : Option ValueTable
  assembly  : Option Assembly
  deriving DecidableEq, Repr

/-- R186. -/
inductive ProfileState where
  | blank | written | torn
  deriving DecidableEq, Repr

/-- A slot image (R186) in canonical form: (word address, word), addresses strictly rising, no erased word listed. -/
abbrev Image := List (Nat × Half)

/-- A profile slot (R186). -/
structure ProfileSlot where
  state : ProfileState
  wear  : Nat
  image : Image
  deriving DecidableEq, Repr

/-- The four profile slots. -/
structure ProfileSlots where
  p0 : ProfileSlot
  p1 : ProfileSlot
  p2 : ProfileSlot
  p3 : ProfileSlot
  deriving DecidableEq, Repr

/-- The profile operations that take time (R168). -/
inductive ProfileOp where
  | erase | write | verify | blankCheck | eraseAll
  deriving DecidableEq, Repr

/-- The operation marker when set (R188, R192). -/
structure Marker where
  slot : Fin 4
  op   : ProfileOp
  deriving DecidableEq, Repr

/-- The profile store. `busy` names the operation that makes it busy (R168, R182); `tag` is the tag its reply echoes. -/
structure Store where
  slots       : ProfileSlots
  isProtected : Bool
  defaultSlot : Option (Fin 4)
  marker      : Option Marker
  busy        : Option ProfileOp
  tag         : Byte
  deriving DecidableEq, Repr

/-- The whole part. `pending` (the commands waiting) and `freeIndex` (the free values drawn) are the model's own fields;
every other field is the spec's. -/
structure State where
  power     : Power
  mode      : Mode
  holdLine  : Bool
  inlet     : Inlet
  forward   : List Packet
  outlet    : Outlet
  capture   : Capture
  reg       : Registration
  placement : Placement
  comp      : Compositor
  ring      : Ring
  sweep     : Sweep
  dirs      : DirectiveUnit
  notes     : NoteUnit
  counters  : Counters
  tables    : Tables
  store     : Store
  freeIndex : Nat
  pending   : List Instr
  deriving DecidableEq, Repr

/-- No rule of the spec stops the part: every error it describes is a result code, a note, a counter or an outcome. The
type has no constructor, so no command can fault. -/
inductive Fault : Type
  deriving DecidableEq, Repr

/-- Why a command has no next state. -/
inductive Refusal where
  /-- Raised by an arm of exec for a command without a meaning. No arm raises it: every command has its meaning. Safe. -/
  | notModelled (mnemonic : String)
  deriving DecidableEq, Repr

/-! ### Reset values -/

/-- One value given to all six kinds. -/
def PerKind.const {α : Type} (a : α) : PerKind α := ⟨a, a, a, a, a, a⟩

/-- R23, R20: every parameter 0, direction RIGHTWARD. -/
def SweepParams.zero : SweepParams := ⟨.rightward, 0, 0, 0, 0, 0, 0, 0, 0, 0, 0, 0, 0⟩

/-- The sweep controller after pin reset (R20). -/
def Sweep.zero : Sweep := ⟨.idle, .none, 0, .zero, 0, 0, 0, 0⟩

/-- Placement after pin reset, power-on and RESET_ENGINE (R20, R125). -/
def Placement.zero : Placement := ⟨-1, 0, ⟨0, 0⟩, 0, ⟨0, 0⟩⟩

/-- The vote grid with every bin 0 (R123). -/
def emptyVotes : List Nat := List.replicate 512 0

/-- The registration engine after pin reset, power-on and RESET_ENGINE (R99, R123). -/
def Registration.zero : Registration := ⟨.waiting, none, [], ⟨0, 0, 0⟩, ⟨0, 0⟩, emptyVotes, none⟩

/-- The three slots FREE (R59). -/
def FrameSlots.allFree : FrameSlots := ⟨none, none, none⟩

/-- The ring after pin reset (R149, R164). -/
def Ring.zero : Ring := ⟨[], [], none, 0, false, none⟩

/-- The note unit after pin reset (R178). -/
def NoteUnit.zero : NoteUnit := ⟨[], [], .const false, .const none⟩

/-- The counters after pin reset (section 9.6). -/
def Counters.zero : Counters := ⟨0, 0, 0, 0, 0, 0, 0, 0⟩

/-- A slot as delivered: BLANK, wear 0, every word erased (R186). -/
def ProfileSlot.delivered : ProfileSlot := ⟨.blank, 0, []⟩

/-- The store as delivered (R186). -/
def Store.delivered : Store :=
  ⟨⟨.delivered, .delivered, .delivered, .delivered⟩, false, none, none, none, 0⟩

/-- No table VALID, the assembly closed (R179, R181). -/
def Tables.empty : Tables := ⟨none, none, none, none⟩

/-- The power-on state of every block (R2), around what survives: the profile store, the level of the hold line, the sampled
mode, the working tables power-on recall gave, and the model's own two fields. -/
def State.cold (power : Power) (mode : Mode) (holdLine : Bool) (tables : Tables) (store : Store) (freeIndex : Nat)
    (pending : List Instr) : State where
  power := power
  mode := mode
  holdLine := holdLine
  inlet := ⟨.hunt [], 0⟩
  forward := []
  outlet := ⟨none, 0⟩
  capture := ⟨0, 0, 0, 0, .allFree, []⟩
  reg := .zero
  placement := .zero
  comp := ⟨false, []⟩
  ring := .zero
  sweep := .zero
  dirs := ⟨[], false⟩
  notes := .zero
  counters := .zero
  tables := tables
  store := store
  freeIndex := freeIndex
  pending := pending

/-- The part right after reset, with the profile store as delivered (log 5), MODE low (log 3) and the outlet not held
(log 4). -/
def State.reset : State := .cold .running .normal false .empty .delivered 0 []

end Sys2Proof.Machine
end

