-- ==== Sys2Proof/WellFormed.lean ====
section
/-! DEFINITION. The checks a command's operands meet before the event can come: the body lengths of R5 and the six bytes of a header (R4). -/

namespace Sys2Proof

/-- The permitted body lengths of R5 for the inlet packets, and six bytes for a tested header (R4, R7). A command without
operands, and one whose operand may be any value, is well formed. -/
def Instr.wellFormed : Instr → Bool
  | .openPacket body => body.length == 12
  | .linePacket body => decide (2 ≤ body.length ∧ body.length ≤ 3842)
  | .shutPacket body => body.length == 2
  | .dirPacket body => decide (2 ≤ body.length ∧ body.length ≤ 258)
  | .syncLoss header => header.length == 6
  | .pinReset | .resetRelease _ | .powerLoss | .huntLock _ | .outletHold _ | .outletPacketComplete | .tileendComplete
  | .status | .eventMask | .counters | .resetEngine | .sweepArm | .sweepEnd | .sweepAbort | .sweepRelease | .grant
  | .tablePage | .profileRecall | .profileErase | .profileWrite | .profileVerify | .profileBlankCheck | .profileProtect
  | .profileEraseAll | .profileDefault | .profileInfo | .unknownDirective | .profileEraseComplete | .profileWriteComplete
  | .profileVerifyComplete | .profileBlankCheckComplete | .eraseAllStageEnd | .registrationTake | .registrationComplete
  | .placement | .compositeTake | .compositeComplete | .tileRunTake => true

end Sys2Proof
end

