-- ==== Sys2Proof/Machine/Operands.lean ====
section
/-! DEFINITION. How bytes become fields and words, and back: headers, inlet bodies, directive bodies, note and tile bodies. -/

namespace Sys2Proof.Machine

/-! ### Numbers to words -/

/-- A signed payload field in two's complement (R19). -/
def intWord (i : Int) : Word := BitVec.ofInt 32 i

/-- An unsigned payload field, zero-extended (R19). -/
def natWord (n : Nat) : Word := BitVec.ofNat 32 n

/-- A word of a slot image. -/
def natHalf (n : Nat) : Half := BitVec.ofNat 16 n

/-- A 16-bit field, most significant byte first (R16). -/
def halfBytes (n : Nat) : List Byte := [BitVec.ofNat 8 (n / 256), BitVec.ofNat 8 n]

/-- A payload word's four bytes, most significant first (R16, R19). -/
def wordBytes (w : Word) : List Byte :=
  [w.extractLsb' 24 8, w.extractLsb' 16 8, w.extractLsb' 8 8, w.extractLsb' 0 8]

/-- Byte i of a body. -/
def byteAt (body : List Byte) (i : Nat) : Byte := body.getD i 0

/-- The 16-bit field at byte i, most significant byte first (R16). -/
def halfAt (body : List Byte) (i : Nat) : Half := byteAt body i ++ byteAt body (i + 1)

/-! ### Headers (R4, R5) -/

/-- The kind codes of R5. -/
def kindCode : PacketKind → Byte
  | .openKind => 0x10
  | .lineKind => 0x11
  | .shutKind => 0x12
  | .dirKind  => 0x20
  | .noteKind => 0x30
  | .tileHead => 0x40
  | .tileRow  => 0x41
  | .tileEnd  => 0x42

/-- The inlet kind a kind byte names, if it names one (R5). -/
def inletKind (code : Byte) : Option PacketKind :=
  if code = 0x10 then some .openKind else if code = 0x11 then some .lineKind
  else if code = 0x12 then some .shutKind else if code = 0x20 then some .dirKind else none

/-- The permitted body lengths of R5. -/
def lengthPermitted (kind : PacketKind) (n : Nat) : Bool :=
  match kind with
  | .openKind => decide (n = 12)
  | .lineKind => decide (2 ≤ n ∧ n ≤ 3842)
  | .shutKind => decide (n = 2)
  | .dirKind  => decide (2 ≤ n ∧ n ≤ 258)
  | .noteKind => decide (3 ≤ n ∧ n ≤ 260)
  | .tileHead => decide (n = 10)
  | .tileRow  => decide (2 ≤ n ∧ n ≤ 130)
  | .tileEnd  => decide (n = 5)

/-- The check byte: complement of kind + length high + length low, modulo 256 (section 1.2). -/
def checkByte (kind high low : Byte) : Byte := ~~~(kind + high + low)

/-- The six bytes of a header (section 1.2, R4). -/
def headerBytes (kind : PacketKind) (length : Nat) : List Byte :=
  let high : Byte := BitVec.ofNat 8 (length / 256)
  let low : Byte := BitVec.ofNat 8 length
  [0xC3, 0x5D, kindCode kind, high, low, checkByte (kindCode kind) high low]

/-- The bytes of a packet on a lane: header, then body (section 1.2). -/
def packetBytes (p : Packet) : List Byte := headerBytes p.kind p.body.length ++ p.body

/-- The first test of R4 that an inlet header fails, by the reason codes of R8. -/
inductive HeaderFault where
  | noSync | badCheck | unknownKind | badLength
  deriving DecidableEq, Repr

/-- R8: NO_SYNC 1, BAD_CHECK 2, UNKNOWN_KIND 3, BAD_LENGTH 4. -/
def headerFaultCode : HeaderFault → Nat
  | .noSync => 1
  | .badCheck => 2
  | .unknownKind => 3
  | .badLength => 4

/-- The four tests of R4 on six bytes, for the inlet direction, in order: the kind and body length, or the first failure. -/
def testHeader (h : List Byte) : Except HeaderFault (PacketKind × Nat) :=
  if byteAt h 0 ≠ 0xC3 ∨ byteAt h 1 ≠ 0x5D then .error .noSync
  else if byteAt h 5 ≠ checkByte (byteAt h 2) (byteAt h 3) (byteAt h 4) then .error .badCheck
  else
    match inletKind (byteAt h 2) with
    | none => .error .unknownKind
    | some kind =>
      if lengthPermitted kind (halfAt h 3).toNat then .ok (kind, (halfAt h 3).toNat) else .error .badLength

/-- The search of R6: at each byte position the six bytes from there are tested, and a failing position's byte is discarded.
The header found and the bytes after it, or the bytes (fewer than six) that still wait. -/
def huntSearch : List Byte → (PacketKind × Nat × List Byte) ⊕ List Byte
  | [] => .inr []
  | b :: rest =>
    if rest.length < 5 then .inr (b :: rest)
    else
      match testHeader ((b :: rest).take 6) with
      | .ok (kind, n) => .inl (kind, n, rest.drop 5)
      | .error _ => huntSearch rest

/-! ### Inlet bodies -/

/-- The fields of an OPEN body as the part reads them (R16). -/
structure OpenFields where
  w        : Nat
  h        : Nat
  exposure : Nat
  hinted   : Bool
  roll     : BitVec 4
  dx       : Word
  dy       : Word
  deriving DecidableEq, Repr

/-- R16: e above 4095 is taken as 4095, flags bit 0 is hint present, the roll byte is used modulo 16, and the hint fields are
signed 16-bit. -/
def readOpen (body : List Byte) : OpenFields where
  w := (halfAt body 0).toNat
  h := (halfAt body 2).toNat
  exposure := min 4095 (halfAt body 4).toNat
  hinted := (byteAt body 6).getLsbD 0
  roll := (byteAt body 7).extractLsb' 0 4
  dx := (halfAt body 8).signExtend 32
  dy := (halfAt body 10).signExtend 32

/-- The line number of a LINE body (section 1.6). -/
def lineNumber (body : List Byte) : Nat := (halfAt body 0).toNat

/-- The luma run of a LINE (R17): the whole payload on an odd line, its first floor(P/2) bytes on an even line. -/
def lumaRun (body : List Byte) : List Byte :=
  let payload := body.drop 2
  if lineNumber body % 2 = 1 then payload else payload.take (payload.length / 2)

/-- The chroma run of an even LINE (R17): the bytes after the luma run. -/
def chromaRun (body : List Byte) : List Byte :=
  let payload := body.drop 2
  if lineNumber body % 2 = 1 then [] else payload.drop (payload.length / 2)

/-! ### Directive bodies (R18) -/

/-- The directive code of a DIR body. -/
def dirCode (body : List Byte) : Byte := byteAt body 0

/-- The tag of a DIR body. -/
def dirTag (body : List Byte) : Byte := byteAt body 1

/-- The parameter bytes as 16-bit words; a body with an odd number of them has none (R18). -/
def paramWords : List Byte → Option (List Nat)
  | [] => some []
  | [_] => none
  | a :: b :: rest => (paramWords rest).map fun ws => (a ++ b : Half).toNat :: ws

/-- The parameter words of a DIR body (R18). -/
def dirParams (body : List Byte) : Option (List Nat) := paramWords (body.drop 2)

/-- The codes of the directive code table (section 1.6). -/
def knownDirective (code : Byte) : Bool :=
  [0x01, 0x02, 0x03, 0x04, 0x10, 0x11, 0x12, 0x13, 0x18, 0x20, 0x30, 0x31, 0x32, 0x33, 0x34, 0x35, 0x36, 0x37, 0x38].contains code

/-! ### Outlet bodies (section 1.6) -/

/-- R19. -/
def resultByte : ResultCode → Byte
  | .done => 0x00
  | .busy => 0x01
  | .wrongState => 0x02
  | .unknown => 0x03
  | .format => 0x04
  | .range => 0x05
  | .notPermitted => 0x06
  | .isProtected => 0x07
  | .notBlank => 0x08
  | .notWritten => 0x09
  | .worn => 0x0A
  | .invalidTable => 0x0B
  | .sequence => 0x0C
  | .repeated => 0x0D
  | .mismatch => 0x0E
  | .noTables => 0x0F

/-- R19. -/
def eventByte : EventKind → Byte
  | .sweepState => 1
  | .frameOutcome => 2
  | .creditStarved => 3
  | .linkSync => 4
  | .directiveOverrun => 5
  | .passthroughDrop => 6

/-- A note's packet (R19, note common body). -/
def notePacket : Note → Packet
  | .reply tag code result payload =>
    ⟨.noteKind, [0x01, tag, code, resultByte result] ++ payload.flatMap wordBytes⟩
  | .event kind superseded payload =>
    ⟨.noteKind, [0x02, eventByte kind, BitVec.ofNat 8 superseded] ++ payload.flatMap wordBytes⟩

/-- The mirrored flag of a TILEHEAD (R158). -/
def mirroredFlag : Direction → Nat
  | .rightward => 0
  | .leftward => 1

/-- The TILEHEAD of a run (R158). -/
def tileHeadPacket (r : Run) (d : Direction) (hc : Nat) : Packet :=
  ⟨.tileHead, [BitVec.ofNat 8 r.sweepId, BitVec.ofNat 8 r.tile, BitVec.ofNat 8 r.columns, BitVec.ofNat 8 (mirroredFlag d)]
    ++ halfBytes hc ++ halfBytes r.top ++ halfBytes r.bottom⟩

/-- Mirrors a list in a LEFTWARD sweep (R54, R160). -/
def inSceneOrder {α : Type} (d : Direction) (l : List α) : List α :=
  match d with
  | .rightward => l
  | .leftward => l.reverse

/-- A TILEROW (R159, R160): the row index, the luma of the sent columns, and on an even row the ceil(columns/2) chroma pairs;
in a LEFTWARD sweep both lists run from the highest column down. -/
def tileRowPacket (t : Tile) (columns row : Nat) (d : Direction) : Packet :=
  let luma := (t.luma.take columns).map fun col => col.getD row 0
  let pairs := (t.chroma.take ((columns + 1) / 2)).map fun col => col.getD (row / 2) (128, 128)
  ⟨.tileRow, halfBytes row ++ inSceneOrder d luma
    ++ (if row % 2 = 0 then (inSceneOrder d pairs).flatMap fun p => [p.1, p.2] else [])⟩

/-- R161: COMPLETE 0x00, ABANDONED 0x01. -/
def runStatusByte : RunStatus → Byte
  | .complete => 0
  | .abandoned => 1

/-- The TILEEND of a run (R161). -/
def tileEndPacket (r : Run) : Packet :=
  ⟨.tileEnd, [BitVec.ofNat 8 r.sweepId, BitVec.ofNat 8 r.tile, runStatusByte r.status] ++ halfBytes r.rowsSent⟩

end Sys2Proof.Machine
end

