-- ==== Sys2Proof/Machine/Projection.lean ====
section
/-! DEFINITION. Chapter 5: forward projection of keypoints and inverse mapping of canvas pixels. Every division floors: each
divisor is positive, where Lean's division on Int is the floor (R95). -/

namespace Sys2Proof.Machine

/-- The working COLUMN_MAP, or one without entries where it is EMPTY (no sweep runs then, R23). -/
def workingMap (t : Tables) : ColumnMap := t.columnMap.getD ⟨0, 0, 0, 0, []⟩

/-- K, the entry count of a map. -/
def mapWidth (m : ColumnMap) : Nat := m.k

/-- |xs - 4x|. -/
def xsDistance (x : Nat) (e : MapEntry) : Nat := ((e.xs : Int) - 4 * x).natAbs

/-- The nearest entry so far and its number, against the entries from `k` on; of equal distances the lower k stays (R84). -/
def nearestFrom (x : Nat) : Nat → MapEntry → Nat → List MapEntry → Nat × MapEntry
  | kBest, best, _, [] => (kBest, best)
  | kBest, best, k, e :: rest =>
    if xsDistance x e < xsDistance x best then nearestFrom x k e (k + 1) rest
    else nearestFrom x kBest best (k + 1) rest

/-- R84: the entry k* whose xs lies nearest to 4x. -/
def nearestEntry (m : ColumnMap) (x : Nat) : Nat × MapEntry :=
  match m.entries with
  | [] => (0, ⟨0, 0, 0⟩)
  | e :: rest => nearestFrom x 0 e 1 rest

/-- R85: the projection of a stored-frame position. -/
def project (m : ColumnMap) (x y : Nat) : Point :=
  let k := nearestEntry m x
  ⟨4 * k.1, 4 * m.yc + (4 * ((y : Int) - m.yc) * k.2.s) / 4096⟩

/-- R80: cx0, the canvas column of map entry 0. -/
def firstColumn (o : Point) : Int := o.x / 4

/-- R80: frac, the quarter-pixel offset within column cx0. -/
def columnFraction (o : Point) : Int := o.x - 4 * firstColumn o

/-- The map entry of canvas column c for a frame at origin o (R87). -/
def entryOfColumn (m : ColumnMap) (o : Point) (c : Int) : MapEntry :=
  m.entries.getD (c - firstColumn o).toNat ⟨0, 0, 4096⟩

/-- R88: the source column, clamped to 0..W-1. -/
def sourceColumn (e : MapEntry) (o : Point) (w : Nat) : Nat :=
  min (((e.xs : Int) - columnFraction o + 2) / 4).toNat (w - 1)

/-- R89: the source row of canvas row r, not clamped. -/
def sourceRow (m : ColumnMap) (e : MapEntry) (o : Point) (r : Int) : Int :=
  let dq := 4 * r - o.y - 4 * m.yc
  let yq := 4 * m.yc + (dq * e.t + 2048) / 4096
  (yq + 2) / 4

/-- R89: the pixel at canvas row r is covered when its source row lies in 0..H-1. -/
def rowCovered (m : ColumnMap) (e : MapEntry) (o : Point) (h : Nat) (r : Int) : Bool :=
  decide (0 ≤ sourceRow m e o r ∧ sourceRow m e o r < h)

/-- R90: new_top and new_bottom, the first and last covered rows within 0..Hc-1. -/
def coveredSpan (m : ColumnMap) (e : MapEntry) (o : Point) (h hc : Nat) : Option Coverage :=
  let covered := fun r : Nat => rowCovered m e o h (r : Int)
  match (List.range hc).find? covered, (List.range hc).reverse.find? covered with
  | some top, some bottom => some ⟨top, bottom⟩
  | _, _ => none

/-- Canvas rows that hold the whole run of covered rows of a column whose t is at least 4096: those within H + 2 rows of the
row where dq is 0 (R90; `rowCovered_window` in Laws/Projection.lean). -/
def runWindow (m : ColumnMap) (o : Point) (h : Nat) : List Int :=
  (List.range (2 * h + 5)).map fun (i : Nat) => (o.y + 4 * m.yc) / 4 - (h + 2) + i

/-- R91: the covered rows above row 0 and below row Hc-1. -/
def overhang (m : ColumnMap) (e : MapEntry) (o : Point) (h hc : Nat) : Nat × Nat :=
  let run := (runWindow m o h).filter fun r => rowCovered m e o h r
  (run.countP fun r => decide (r < 0), run.countP fun r => decide ((hc : Int) ≤ r))

/-- R91, R146: a column overhangs the canvas rows. -/
def overhangs (m : ColumnMap) (e : MapEntry) (o : Point) (h hc : Nat) : Bool :=
  decide (overhang m e o h hc ≠ (0, 0))

end Sys2Proof.Machine
end

