-- ==== Sys2Proof/Machine/Canvas.lean ====
section
/-! DEFINITION. Chapter 7's writing of columns (section 7.7), and chapter 8's tile geometry: fresh tiles, tile ends, crop. -/

namespace Sys2Proof.Machine

/-- R135: the record of a tile just opened. -/
def freshTile (hc t : Nat) : Tile :=
  ⟨t, .opened, 0, List.replicate 64 none, List.replicate 64 (List.replicate hc 0),
    List.replicate 32 (List.replicate (hc / 2) (128, 128))⟩

/-- R126: b = min(F, E_old - cx0 + 1). -/
def bandWidth (f : Nat) (eOld cx0 : Int) : Nat := (min (f : Int) (eOld - cx0 + 1)).toNat

/-- R127: the first written column, E_old - b + 1. -/
def firstWritten (eOld : Int) (band : Nat) : Int := eOld - band + 1

/-- R127: the class of a canvas column under a composite. -/
inductive ColumnClass where
  | untouched | band (weight : Nat) | fresh
  deriving DecidableEq, Repr

/-- R126, R127: below the band or cut, in the band with its weight w_(F-b+j), or fresh. -/
def columnClass (en : CompositeEntry) (f : ValueTable) (c : Int) : ColumnClass :=
  let c1 := firstWritten en.eOld en.band
  if c < c1 ∨ en.eNew < c then .untouched
  else if c ≤ en.eOld then .band (f.values.getD (f.values.length - en.band + (c - c1).toNat) 0)
  else .fresh

/-- R137: the gain-applied value of a source luma. -/
def gainApplied (g : Nat) (y : Byte) : Byte := BitVec.ofNat 8 (min 255 ((y.toNat * g + 2048) / 4096))

/-- R143: floor((old (256 - w) + new w + 128) / 256). -/
def blend (w : Nat) (old new : Byte) : Byte := BitVec.ofNat 8 ((old.toNat * (256 - w) + new.toNat * w + 128) / 256)

/-- R143, R144: a sample after the composite, by the column's class and the two coverages. -/
def sampleAfter (cls : ColumnClass) (fill : Byte) (new : Option Byte) (oldCovered : Bool) (old : Byte) : Byte :=
  match cls with
  | .untouched => old
  | .band w =>
    match new with
    | none => old
    | some n => if oldCovered then blend w old n else n
  | .fresh => new.getD fill

/-- What a composite reads beside the tile (R139). -/
structure PaintInputs where
  map     : ColumnMap
  feather : ValueTable
  gain    : Nat
  hc      : Nat
  frame   : CapturedFrame
  entry   : CompositeEntry

/-- Row r lies within a coverage entry (R143's old-covered). -/
def oldCovered (cov : Option Coverage) (r : Nat) : Bool :=
  match cov with
  | none => false
  | some s => decide (s.top ≤ r ∧ r ≤ s.bottom)

/-- The stored luma that canvas pixel (c, r) takes, gain applied, if it is new-covered (R88, R89, R137). -/
def newLuma (i : PaintInputs) (c : Int) (r : Nat) : Option Byte :=
  let e := entryOfColumn i.map i.entry.origin c
  if rowCovered i.map e i.entry.origin i.frame.record.h r then
    let row := i.frame.luma.getD (sourceRow i.map e i.entry.origin r).toNat []
    some (gainApplied i.gain (row.getD (sourceColumn e i.entry.origin i.frame.record.w) 0))
  else none

/-- The stored chroma pair that canvas pair row rc of column c takes, if luma (c, 2rc) is new-covered (R92, R144). -/
def newChroma (i : PaintInputs) (c : Int) (rc : Nat) : Option (Byte × Byte) :=
  let e := entryOfColumn i.map i.entry.origin c
  if rowCovered i.map e i.entry.origin i.frame.record.h (2 * rc : Nat) then
    let row := i.frame.chroma.getD ((sourceRow i.map e i.entry.origin (2 * rc : Nat)).toNat / 2) []
    some (row.getD (sourceColumn e i.entry.origin i.frame.record.w / 2) (128, 128))
  else none

/-- R143: a column's luma after the composite. -/
def paintLuma (i : PaintInputs) (c : Int) (cov : Option Coverage) (old : List Byte) : List Byte :=
  match columnClass i.entry i.feather c with
  | .untouched => old
  | cls => (List.range i.hc).map fun r => sampleAfter cls 0 (newLuma i c r) (oldCovered cov r) (old.getD r 0)

/-- R144: a pair column's chroma after the composite, by the class and coverage of its even luma column c. -/
def paintChroma (i : PaintInputs) (c : Int) (cov : Option Coverage) (old : List (Byte × Byte)) : List (Byte × Byte) :=
  match columnClass i.entry i.feather c with
  | .untouched => old
  | cls => (List.range (i.hc / 2)).map fun rc =>
      let n := newChroma i c rc
      let o := old.getD rc (128, 128)
      (sampleAfter cls 128 (n.map (·.1)) (oldCovered cov (2 * rc)) o.1,
        sampleAfter cls 128 (n.map (·.2)) (oldCovered cov (2 * rc)) o.2)

/-- R145: a column's coverage entry after the composite. -/
def coverageAfter (i : PaintInputs) (c : Int) (cov : Option Coverage) : Option Coverage :=
  match columnClass i.entry i.feather c with
  | .untouched => cov
  | _ =>
    match coveredSpan i.map (entryOfColumn i.map i.entry.origin c) i.entry.origin i.frame.record.h i.hc with
    | none => cov
    | some n =>
      match cov with
      | none => some n
      | some o => some ⟨min o.top n.top, max o.bottom n.bottom⟩

/-- A tile with a composite written into it (R143 to R145); tiles outside the entry's range are not written. -/
def paintTile (i : PaintInputs) (t : Tile) : Tile :=
  if i.entry.firstTile ≤ t.index ∧ t.index ≤ i.entry.lastTile then
    { t with
      coverage := (List.range 64).map fun n => coverageAfter i (64 * t.index + n : Nat) (t.coverage.getD n none)
      luma := (List.range 64).map fun n =>
        paintLuma i (64 * t.index + n : Nat) (t.coverage.getD n none) (t.luma.getD n [])
      chroma := (List.range 32).map fun n =>
        paintChroma i (64 * t.index + 2 * n : Nat) (t.coverage.getD (2 * n) none) (t.chroma.getD n []) }
  else t

/-- The written columns' coverage entries of a tile (R152). -/
def writtenColumns (t : Tile) : List Coverage := t.coverage.filterMap id

/-- R152: the crop accumulator after a tile is folded into it. -/
def foldCrop (crop : Option Coverage) (t : Tile) : Option Coverage :=
  match writtenColumns t with
  | [] => crop
  | c :: rest =>
    let top := rest.foldl (fun m x => max m x.top) c.top
    let bottom := rest.foldl (fun m x => min m x.bottom) c.bottom
    match crop with
    | none => some ⟨top, bottom⟩
    | some p => some ⟨max p.top top, min p.bottom bottom⟩

/-- R153: the tile top and tile bottom; Hc - 1 and 0 when no column is written. -/
def tileEnds (hc : Nat) (t : Tile) : Nat × Nat :=
  match writtenColumns t with
  | [] => (hc - 1, 0)
  | c :: rest => (rest.foldl (fun m x => min m x.top) c.top, rest.foldl (fun m x => max m x.bottom) c.bottom)

/-- R158: min(64, E - 64t + 1). -/
def columnCount (e : Int) (t : Nat) : Nat := (min 64 (e - 64 * t + 1)).toNat

/-- R137: the gain index, e0 - e clamped to -64..63. -/
def gainIndex (e0 e : Nat) : Int := max (-64) (min 63 ((e0 : Int) - e))

/-- R137: the gain factor GAIN[g + 64]. -/
def gainFactor (g : ValueTable) (index : Int) : Nat := g.values.getD (index + 64).toNat 4096

/-- R146: a column from c1 to E' overhangs the canvas rows. -/
def driftCrop (m : ColumnMap) (o : Point) (h hc : Nat) (c1 eNew : Int) : Bool :=
  (List.range (eNew - c1 + 1).toNat).any fun n => overhangs m (entryOfColumn m o (c1 + n)) o h hc

end Sys2Proof.Machine
end

