-- ==== Sys2Proof/Machine/Detector.lean ====
section
/-! DEFINITION. Chapter 4: ring sampling, candidates, descriptors, suppression, cells and the keypoint list. -/

namespace Sys2Proof.Machine

/-- The luma of stored position (x, y). -/
def lumaAt (rows : List (List Byte)) (x y : Int) : Int :=
  ((rows.getD y.toNat []).getD x.toNat 0).toNat

/-- The sixteen ring offsets of R62, samples 0 to 15. -/
def ringOffsets : List (Int × Int) :=
  [(0, -3), (1, -3), (2, -2), (3, -1), (3, 0), (3, 1), (2, 2), (1, 3),
   (0, 3), (-1, 3), (-2, 2), (-3, 1), (-3, 0), (-3, -1), (-2, -2), (-1, -3)]

/-- The sixteen ring samples of a position (R62). -/
def ringSamples (rows : List (List Byte)) (x y : Nat) : List Int :=
  ringOffsets.map fun d => lumaAt rows (x + d.1) (y + d.2)

/-- R62: the detection area. -/
def inDetectionArea (w h x y : Nat) : Bool := decide (3 ≤ x ∧ x + 4 ≤ w ∧ 3 ≤ y ∧ y + 4 ≤ h)

/-- The terms C - ring_i - tau (BRIGHT, R63) or ring_i - C - tau (DARK, R64); a sample qualifies when its term is above 0. -/
def ringTerms (p : Polarity) (c tau : Int) (ring : List Int) : List Int :=
  ring.map fun r => match p with
    | .bright => c - r - tau
    | .dark => r - c - tau

/-- The terms read around the ring from sample i. -/
def rotatedFrom (i : Nat) (terms : List Int) : List Int := terms.drop i ++ terms.take i

/-- The qualifying samples that follow one another from sample i (R63). -/
def runFrom (i : Nat) (terms : List Int) : List Int := (rotatedFrom i terms).takeWhile fun t => decide (0 < t)

/-- The longest run around the ring, by its terms; of equally long ones the first found (R63). -/
def longestRun (terms : List Int) : List Int :=
  (List.range 16).foldl (fun best i => if best.length < (runFrom i terms).length then runFrom i terms else best) []

/-- R63 to R65: the strength of a candidate of this polarity, if the longest run has at least 9 samples. -/
def strengthOf (p : Polarity) (c tau : Int) (ring : List Int) : Option Nat :=
  let run := longestRun (ringTerms p c tau ring)
  if 9 ≤ run.length then some (min 4095 run.sum.toNat) else none

/-- The 16-bit code with bit i set where `p i`. -/
def codeOf (p : Nat → Bool) : Half :=
  BitVec.ofNat 16 ((List.range 16).map fun i => if p i then 2 ^ i else 0).sum

/-- R66: bit i is 1 when ring_i is greater than C. -/
def ringCode (c : Int) (ring : List Int) : Half := codeOf fun i => decide (c < ring.getD i 0)

/-- R66: bit i is 1 when ring_i is greater than ring_((i+5) mod 16). -/
def chordCode (ring : List Int) : Half := codeOf fun i => decide (ring.getD ((i + 5) % 16) 0 < ring.getD i 0)

/-- The candidate at a position, if it is one (R63 to R66). -/
def candidateAt (tau w h : Nat) (rows : List (List Byte)) (x y : Nat) : Option Candidate :=
  if inDetectionArea w h x y then
    let c := lumaAt rows x y
    let ring := ringSamples rows x y
    match strengthOf .bright c tau ring with
    | some st => some ⟨x, y, .bright, st, ringCode c ring, chordCode ring⟩
    | none => (strengthOf .dark c tau ring).map fun st => ⟨x, y, .dark, st, ringCode c ring, chordCode ring⟩
  else none

/-- R61 step 2: the candidates of a row, in increasing x. -/
def evaluateRow (tau w h : Nat) (rows : List (List Byte)) (y : Nat) : List Candidate :=
  (List.range w).filterMap fun x => candidateAt tau w h rows x y

/-- R67: raster order, smaller y first, then smaller x. -/
def rasterBefore (a b : Candidate) : Bool := decide (a.y < b.y ∨ (a.y = b.y ∧ a.x < b.x))

/-- The eight positions around (x, y); detection positions have x and y at least 3. -/
def neighbours (x y : Nat) : List (Nat × Nat) :=
  [(x - 1, y - 1), (x, y - 1), (x + 1, y - 1), (x - 1, y), (x + 1, y), (x - 1, y + 1), (x, y + 1), (x + 1, y + 1)]

/-- R67: a neighbouring candidate is stronger, or as strong and earlier in raster order. The comparison is made against
candidates, which depend on the stored luma alone, whether or not they survive. -/
def suppressed (tau w h : Nat) (rows : List (List Byte)) (c : Candidate) : Bool :=
  (neighbours c.x c.y).any fun p =>
    match candidateAt tau w h rows p.1 p.2 with
    | none => false
    | some n => decide (c.strength < n.strength) || (decide (c.strength = n.strength) && rasterBefore n c)

/-- R69: the cell number of a position. -/
def cellOf (w h x y : Nat) : Nat := 8 * (y / (h / 4)) + x / (w / 8)

/-- The weakest held survivor: lowest strength, of equal strengths the latest in raster order (R70). -/
def weakest : List Candidate → Option Candidate
  | [] => none
  | c :: rest =>
    match weakest rest with
    | none => some c
    | some d => if c.strength < d.strength ∨ (c.strength = d.strength ∧ rasterBefore d c) then some c else some d

/-- R70: a survivor arrives at its cell; the selection and the overflow flag after it. -/
def offerToCell (held : List Candidate) (overflow : Bool) (c : Candidate) : List Candidate × Bool :=
  if held.length < 4 then (held ++ [c], overflow)
  else
    match weakest held with
    | some d => if d.strength < c.strength then (held.erase d ++ [c], true) else (held, true)
    | none => (held, true)

/-- A survivor offered to the cell of its own position (R69, R70). -/
def offerSurvivor (w h : Nat) (cells : List (List Candidate)) (overflow : List Bool) (c : Candidate) :
    List (List Candidate) × List Bool :=
  let i := cellOf w h c.x c.y
  let r := offerToCell (cells.getD i []) (overflow.getD i false) c
  (cells.set i r.1, overflow.set i r.2)

/-- R61 step 3: suppression decided for every pending candidate of row y, in increasing x; survivors go to their cells. -/
def decideRow (tau w h : Nat) (rows : List (List Byte)) (y : Nat)
    (st : List Candidate × List (List Candidate) × List Bool) : List Candidate × List (List Candidate) × List Bool :=
  let decided := st.1.filter fun c => decide (c.y = y)
  let survivors := decided.filter fun c => !suppressed tau w h rows c
  (st.1.filter (fun c => decide (c.y ≠ y)),
    survivors.foldl (fun acc c => offerSurvivor w h acc.1 acc.2 c) st.2)

/-- R60: the context at the OPEN. -/
def freshDetection : Detection := .working 0 [] (List.replicate 32 []) (List.replicate 32 false)

/-- R61: the offer of the row just stored, the last of `rows`. -/
def offerRow (tau w h : Nat) (rows : List (List Byte)) : Detection → Detection
  | .finished kps ov => .finished kps ov
  | .working offered pend cells overflow =>
    let n := offered
    let pend1 := if 6 ≤ n then pend ++ evaluateRow tau w h rows (n - 3) else pend
    let st1 := (pend1, cells, overflow)
    let st2 := if 7 ≤ n then decideRow tau w h rows (n - 4) st1 else st1
    let st3 := if 7 ≤ n ∧ n + 1 = h then decideRow tau w h rows (h - 4) st2 else st2
    .working (offered + 1) st3.1 st3.2.1 st3.2.2

/-- R72 steps 2 and 3: within a cell, strength descending, then raster order. -/
def listsBefore (a b : Candidate) : Bool :=
  decide (b.strength < a.strength) || (decide (a.strength = b.strength) && !rasterBefore b a)

/-- R72, R73: the keypoint records of the cell selections, cell by cell. -/
def assembleKeypoints (cells : List (List Candidate)) : List Keypoint :=
  let ordered := (cells.mapIdx fun cell held => (held.insertionSort fun a b => listsBefore a b).map fun c => (cell, c)).flatten
  ordered.mapIdx fun i p =>
    ⟨i, p.1, p.2.x, p.2.y, p.2.polarity, p.2.strength, p.2.ring, p.2.chord, none⟩

/-- R72: the context in the READY event. -/
def finishDetection : Detection → Detection
  | .finished kps ov => .finished kps ov
  | .working _ _ cells overflow => .finished (assembleKeypoints cells) overflow

/-- The keypoint list of a context; empty before READY (R60). -/
def keypointsOf : Detection → List Keypoint
  | .working _ _ _ _ => []
  | .finished kps _ => kps

end Sys2Proof.Machine
end

