-- ==== Sys2Proof/Config.lean ====
section
/-! DEFINITION. The free values: what the manual leaves open after a cut profile operation. -/

namespace Sys2Proof

/-- FREE VALUE (log 2). The word at `address` of the image left by the `n`-th cut operation: "A TORN slot's image is whatever
the cut operation left, and each of its words may hold any value 0..65535" (R186). Nothing can be proved of it. -/
opaque Config.tornWord (n address : Nat) : Half

end Sys2Proof
end

