-- ==== Sys2Proof/Machine/Image.lean ====
section
/-! DEFINITION. Table contents, their validation (R180), and the slot images that hold them (R186, R190, R194). -/

namespace Sys2Proof.Machine

/-! ### Images -/

/-- The erased value: what an unlisted word of an image reads as (R186). -/
def erasedWord : Half := 0xFFFF

/-- The words of an image (R186). -/
def imageSize : Nat := 6144

/-- The word at an address. -/
def imageRead : Image → Nat → Half
  | [], _ => erasedWord
  | (b, w) :: rest, a => if b = a then w else imageRead rest a

/-- The canonical form: addresses strictly rising and below the image's size, no erased word listed. -/
abbrev Image.wf (img : Image) : Prop :=
  img.Pairwise (fun p q => p.1 < q.1) ∧ ∀ p ∈ img, p.1 < imageSize ∧ p.2 ≠ erasedWord

/-- The image whose word at each address is `f`'s. -/
def imageOf (f : Nat → Half) : Image :=
  (List.range imageSize).filterMap fun a => if f a = erasedWord then none else some (a, f a)

/-- The image that holds these words from word 0, every word after the last erased (R186). -/
def imageOfWords (ws : List Half) : Image := imageOf fun a => ws.getD a erasedWord

/-- The image of a TORN slot: every word free (R186, log 2). -/
def tornImage (n : Nat) : Image := imageOf (Config.tornWord n)

/-- The image of a BLANK slot (R186). -/
def blankImage : Image := []

/-! ### Tables in an image (R186) -/

/-- The words of a COLUMN_MAP: header, then xs, s, t of each entry. -/
def columnMapWords (m : ColumnMap) : List Half :=
  [natHalf m.wFor, natHalf m.hFor, natHalf m.yc, natHalf m.k]
    ++ m.entries.flatMap fun e => [natHalf e.xs, natHalf e.s, natHalf e.t]

/-- The words of a FEATHER or GAIN table: header, then values. -/
def valueTableWords (v : ValueTable) : List Half := natHalf v.count :: v.values.map natHalf

/-- The image words of a table set, in image order (R186). -/
def setWords (m : ColumnMap) (f g : ValueTable) : List Half :=
  columnMapWords m ++ valueTableWords f ++ valueTableWords g

/-- The COLUMN_MAP that an image's words spell from word 0. -/
def imageColumnMap (img : Image) : ColumnMap :=
  let at' := fun a => (imageRead img a).toNat
  ⟨at' 0, at' 1, at' 2, at' 3, (List.range (at' 3)).map fun k => ⟨at' (4 + 3 * k), at' (5 + 3 * k), at' (6 + 3 * k)⟩⟩

/-- The FEATHER or GAIN table that an image's words spell from word `base`. -/
def imageValueTable (img : Image) (base : Nat) : ValueTable :=
  let n := (imageRead img base).toNat
  ⟨n, (List.range n).map fun j => (imageRead img (base + 1 + j)).toNat⟩

/-- Where the FEATHER table starts behind a COLUMN_MAP of `k` entries. -/
def featherBase (k : Nat) : Nat := 4 + 3 * k

/-- Where the GAIN table starts behind `k` entries and `f` weights. -/
def gainBase (k f : Nat) : Nat := featherBase k + 1 + f

/-! ### Validation (R180) -/

/-- Header ranges of a COLUMN_MAP (R180). -/
def columnMapHeaderOk (m : ColumnMap) : Bool :=
  decide (640 ≤ m.wFor ∧ m.wFor ≤ 1920 ∧ m.wFor % 32 = 0 ∧ 360 ≤ m.hFor ∧ m.hFor ≤ 1088 ∧ m.hFor % 8 = 0 ∧
    m.yc < m.hFor ∧ 64 ≤ m.k ∧ m.k ≤ m.wFor)

/-- One COLUMN_MAP entry against the entry before it (R180). -/
def mapEntryOk (wFor : Nat) (prev : Option MapEntry) (e : MapEntry) : Bool :=
  decide (e.xs ≤ 4 * (wFor - 1) ∧ 2048 ≤ e.s ∧ e.s ≤ 4096 ∧ 4096 ≤ e.t ∧ e.t ≤ 8192) &&
    (match prev with
     | none => true
     | some p => decide (p.xs < e.xs))

/-- The index of the first entry, from `i` on, that fails its check against the entry before it. -/
def firstBad {α : Type} (ok : Option α → α → Bool) : Option α → Nat → List α → Option Nat
  | _, _, [] => none
  | prev, i, e :: rest => if ok prev e then firstBad ok (some e) (i + 1) rest else some i

/-- Validation of a COLUMN_MAP: `none` when valid, else -1 for the header or the first failing index (R180). -/
def columnMapFault (m : ColumnMap) : Option Int :=
  if columnMapHeaderOk m then (firstBad (mapEntryOk m.wFor) none 0 m.entries).map Int.ofNat else some (-1)

/-- One FEATHER weight against the one before it (R180). -/
def featherWeightOk (prev : Option Nat) (w : Nat) : Bool :=
  decide (w ≤ 256) && (match prev with
    | none => true
    | some p => decide (p ≤ w))

/-- Validation of a FEATHER table (R180). -/
def featherFault (f : ValueTable) : Option Int :=
  if f.count ≤ 64 then (firstBad featherWeightOk none 0 f.values).map Int.ofNat else some (-1)

/-- Validation of a GAIN table (R180). -/
def gainFault (g : ValueTable) : Option Int :=
  if g.count = 128 then (firstBad (fun _ v => decide (v ≤ 65535)) none 0 g.values).map Int.ofNat else some (-1)

/-- R194: the image's three tables when all validate in the order COLUMN_MAP, FEATHER, GAIN, or the first failing table and
index. -/
def recallImage (img : Image) : Except (TableId × Int) (ColumnMap × ValueTable × ValueTable) :=
  let m := imageColumnMap img
  match columnMapFault m with
  | some i => .error (.columnMap, i)
  | none =>
    let f := imageValueTable img (featherBase m.k)
    match featherFault f with
    | some i => .error (.feather, i)
    | none =>
      let g := imageValueTable img (gainBase m.k f.count)
      match gainFault g with
      | some i => .error (.gain, i)
      | none => .ok (m, f, g)

/-! ### Verify (R190) -/

/-- The first index below `n` whose words in the image, `per` words from `base + per * index`, differ from `expected`. -/
def firstDifference (img : Image) (base per : Nat) (expected : List (List Half)) : Option Nat :=
  (List.range expected.length).find? fun i =>
    (List.range per).any fun j => imageRead img (base + per * i + j) != (expected.getD i []).getD j erasedWord

/-- One FEATHER or GAIN table against the image: -1 for the header, or the first differing index (R190). -/
def valueTableDifference (img : Image) (base : Nat) (t : Option ValueTable) : Option Int :=
  match t with
  | none => some (-1)
  | some v =>
    if imageRead img base = natHalf v.count then
      (firstDifference img (base + 1) 1 (v.values.map fun x => [natHalf x])).map Int.ofNat
    else some (-1)

/-- The COLUMN_MAP against the image (R190). -/
def columnMapDifference (img : Image) (t : Option ColumnMap) : Option Int :=
  match t with
  | none => some (-1)
  | some m =>
    if imageRead img 0 = natHalf m.wFor ∧ imageRead img 1 = natHalf m.hFor ∧ imageRead img 2 = natHalf m.yc ∧
        imageRead img 3 = natHalf m.k then
      (firstDifference img 4 3 (m.entries.map fun e => [natHalf e.xs, natHalf e.s, natHalf e.t])).map Int.ofNat
    else some (-1)

/-- R190: the first difference between an image and the working set, in image order. An EMPTY table differs at its header. -/
def imageDifference (img : Image) (t : Tables) : Option (TableId × Int) :=
  match columnMapDifference img t.columnMap with
  | some i => some (.columnMap, i)
  | none =>
    let k := (t.columnMap.map (·.k)).getD 0
    match valueTableDifference img (featherBase k) t.feather with
    | some i => some (.feather, i)
    | none =>
      let f := (t.feather.map (·.count)).getD 0
      match valueTableDifference img (gainBase k f) t.gain with
      | some i => some (.gain, i)
      | none => none

/-! ### Profile slots -/

/-- A slot by number. -/
def ProfileSlots.get (p : ProfileSlots) : Fin 4 → ProfileSlot
  | 0 => p.p0
  | 1 => p.p1
  | 2 => p.p2
  | 3 => p.p3

/-- The slots with one of them replaced. -/
def ProfileSlots.set (p : ProfileSlots) (i : Fin 4) (s : ProfileSlot) : ProfileSlots :=
  match i with
  | 0 => { p with p0 := s }
  | 1 => { p with p1 := s }
  | 2 => { p with p2 := s }
  | 3 => { p with p3 := s }

/-- The four slots in order. -/
def ProfileSlots.all (p : ProfileSlots) : List ProfileSlot := [p.p0, p.p1, p.p2, p.p3]

/-- R191: BLANK answers no offset, WRITTEN 0, TORN the first word that is not erased, or 6144. -/
def notBlankOffset (s : ProfileSlot) : Option Nat :=
  match s.state with
  | .blank => none
  | .written => some 0
  | .torn => some ((s.image.head?.map (·.1)).getD imageSize)

/-! ### Page assembly (R181, R183) -/

/-- The table id of a parameter word (R181). -/
def tableIdOf (n : Nat) : Option TableId :=
  if n = 1 then some .columnMap else if n = 2 then some .feather else if n = 3 then some .gain else none

/-- Entries of one page at most (R181). -/
def pageLimit : TableId → Nat
  | .columnMap => 32
  | .feather => 64
  | .gain => 32

/-- Header words of a FIRST page (R181). -/
def headerWords : TableId → Nat
  | .columnMap => 4
  | .feather => 1
  | .gain => 1

/-- Words of one entry (R181). -/
def entryWords : TableId → Nat
  | .columnMap => 3
  | .feather => 1
  | .gain => 1

/-- The greatest header count a table can hold (R183). -/
def greatestCount : TableId → Nat
  | .columnMap => 1920
  | .feather => 64
  | .gain => 128

/-- The header count: K, F or the count, the last header word (R183). -/
def headerCount (header : List Nat) : Nat := header.getLastD 0

/-- `n` entries of `per` words each, from a page's entry words. -/
def pageEntries (per n : Nat) (ws : List Nat) : List (List Nat) :=
  (List.range n).map fun i => (ws.drop (per * i)).take per

/-- The COLUMN_MAP an assembly holds. -/
def assembledColumnMap (a : Assembly) : ColumnMap :=
  ⟨a.header.getD 0 0, a.header.getD 1 0, a.header.getD 2 0, a.header.getD 3 0,
    a.entries.map fun e => ⟨e.getD 0 0, e.getD 1 0, e.getD 2 0⟩⟩

/-- The FEATHER or GAIN table an assembly holds. -/
def assembledValues (a : Assembly) : ValueTable := ⟨a.header.getD 0 0, a.entries.map fun e => e.getD 0 0⟩

/-- Validation of an assembled table (R180, R185). -/
def assemblyFault (a : Assembly) : Option Int :=
  match a.table with
  | .columnMap => columnMapFault (assembledColumnMap a)
  | .feather => featherFault (assembledValues a)
  | .gain => gainFault (assembledValues a)

/-- The tables with the assembled one in place of the working table of its id, and the assembly closed (R185). -/
def installAssembly (a : Assembly) (t : Tables) : Tables :=
  match a.table with
  | .columnMap => { t with columnMap := some (assembledColumnMap a), assembly := none }
  | .feather => { t with feather := some (assembledValues a), assembly := none }
  | .gain => { t with gain := some (assembledValues a), assembly := none }

end Sys2Proof.Machine
end

