-- ==== Sys2Proof/Machine/Flags.lean ====
section
/-! DEFINITION. Codes and sums of flags that notes carry: states, causes, outcomes, kind sets, table validity, outcome flags,
and the outcome record (R21, R40, R42, R173, R174). -/

namespace Sys2Proof.Machine

/-- R21 word 0, R174 word 0. -/
def sweepStateCode : SweepState → Nat
  | .idle => 0
  | .armed => 1
  | .tracking => 2
  | .coasting => 3
  | .draining => 4
  | .ended => 5

/-- R21 word 1. -/
def endCauseCode : EndCause → Nat
  | .none => 0
  | .finished => 1
  | .lost => 2
  | .reversal => 3
  | .starved => 4
  | .drift => 5
  | .widthLimit => 6
  | .geometry => 7
  | .aborted => 8

/-- The frame outcomes, with the codes of section 2.9. -/
inductive FrameOutcome where
  | seed | composited | slow | reversed | failed | drifted | gap | full | damaged | notCaptured | geometry | discarded
  deriving DecidableEq, Repr

/-- Section 2.9. -/
def outcomeCode : FrameOutcome → Nat
  | .seed => 1
  | .composited => 2
  | .slow => 3
  | .reversed => 4
  | .failed => 5
  | .drifted => 6
  | .gap => 7
  | .full => 8
  | .damaged => 9
  | .notCaptured => 10
  | .geometry => 11
  | .discarded => 12

/-- The failure reasons of R117. -/
inductive FailReason where
  | none | tooFew | noConsensus
  deriving DecidableEq, Repr

/-- R42 word 3. -/
def failReasonCode : FailReason → Nat
  | .none => 0
  | .tooFew => 1
  | .noConsensus => 2

/-- The outcome record of R42 as the deciding block passes it; an absent field stands at 0. -/
structure OutcomeRecord where
  seq       : Half
  outcome   : FrameOutcome
  reason    : FailReason := .none
  origin    : Point := ⟨0, 0⟩
  delta     : Point := ⟨0, 0⟩
  pred      : Point := ⟨0, 0⟩
  claims    : Nat := 0
  support   : Nat := 0
  keypoints : Nat := 0
  overflow  : Nat := 0
  gain      : Int := 0
  driftCrop : Bool := false
  widthCut  : Bool := false
  repaired  : Bool := false
  deriving DecidableEq, Repr

/-- R42 word 15: DRIFT_CROP 1, WIDTH_CUT 2, LINES_REPAIRED 4, as a sum. -/
def outcomeFlags (r : OutcomeRecord) : Nat :=
  r.driftCrop.toNat + 2 * r.widthCut.toNat + 4 * r.repaired.toNat

/-- The seventeen words of R42, with the sweep id and the coast counter after the outcome was applied. -/
def outcomeWords (r : OutcomeRecord) (sweepId coast : Nat) : List Word :=
  [natWord sweepId, natWord r.seq.toNat, natWord (outcomeCode r.outcome), natWord (failReasonCode r.reason),
    intWord r.origin.x, intWord r.origin.y, intWord r.delta.x, intWord r.delta.y, intWord r.pred.x, intWord r.pred.y,
    natWord r.claims, natWord r.support, natWord r.keypoints, natWord r.overflow, intWord r.gain,
    natWord (outcomeFlags r), natWord coast]

/-- What R30's table does to the coast counter. -/
inductive CoastEffect where
  | increment | clear | keep
  deriving DecidableEq, Repr

/-- R30: the effect of an outcome on the coast counter, in the sweep state at hand. -/
def coastEffect (o : FrameOutcome) (st : SweepState) : CoastEffect :=
  match o with
  | .failed | .reversed | .full | .drifted | .gap => .increment
  | .damaged => if st = .tracking ∨ st = .coasting then .increment else .keep
  | .composited | .slow | .seed => .clear
  | .notCaptured | .geometry | .discarded => .keep

/-- R30: the end cause when this outcome reaches coast_limit. -/
def coastCause : FrameOutcome → EndCause
  | .reversed => .reversal
  | .full => .starved
  | .drifted => .drift
  | _ => .lost

/-- R30: an increment that would pass coast_limit leaves the counter at coast_limit. -/
def coastAfter (e : CoastEffect) (coast limit : Nat) : Nat :=
  match e with
  | .increment => min limit (coast + 1)
  | .clear => 0
  | .keep => coast

/-- The outcomes FRAMES_COMPOSITED and frames composited count (R40, R41). -/
def countsAsComposited : FrameOutcome → Bool
  | .seed | .composited => true
  | _ => false

/-- The fixed kind order of R171. -/
def eventKinds : List EventKind :=
  [.sweepState, .frameOutcome, .creditStarved, .linkSync, .directiveOverrun, .passthroughDrop]

/-- The value of a kind in an enable set (R173). -/
def kindValue : EventKind → Nat
  | .sweepState => 1
  | .frameOutcome => 2
  | .creditStarved => 4
  | .linkSync => 8
  | .directiveOverrun => 16
  | .passthroughDrop => 32

/-- One kind's value of a `PerKind`. -/
def PerKind.get {α : Type} (p : PerKind α) : EventKind → α
  | .sweepState => p.sweepState
  | .frameOutcome => p.frameOutcome
  | .creditStarved => p.creditStarved
  | .linkSync => p.linkSync
  | .directiveOverrun => p.directiveOverrun
  | .passthroughDrop => p.passthroughDrop

/-- A `PerKind` with one kind's value replaced. -/
def PerKind.set {α : Type} (p : PerKind α) (k : EventKind) (a : α) : PerKind α :=
  match k with
  | .sweepState => { p with sweepState := a }
  | .frameOutcome => { p with frameOutcome := a }
  | .creditStarved => { p with creditStarved := a }
  | .linkSync => { p with linkSync := a }
  | .directiveOverrun => { p with directiveOverrun := a }
  | .passthroughDrop => { p with passthroughDrop := a }

/-- The masks an enable set gives (R173): a kind is UNMASKED when its value is part of the set. -/
def masksOf (enable : Nat) : PerKind Bool :=
  ⟨enable.testBit 0, enable.testBit 1, enable.testBit 2, enable.testBit 3, enable.testBit 4, enable.testBit 5⟩

/-- The set of kinds with a pending record, as a sum of kind values (R173, R177). -/
def pendingSet (p : PerKind (Option PendingRecord)) : Nat :=
  (eventKinds.map fun k => if (p.get k).isSome then kindValue k else 0).sum

/-- R174 word 13: COLUMN_MAP 1, FEATHER 2, GAIN 4, as the sum of those VALID. -/
def tableValidity (t : Tables) : Nat :=
  t.columnMap.isSome.toNat + 2 * t.feather.isSome.toNat + 4 * t.gain.isSome.toNat

/-- The table ids of R180. -/
def tableIdCode : TableId → Nat
  | .columnMap => 1
  | .feather => 2
  | .gain => 3

/-- R193: BLANK 0, WRITTEN 1, TORN 2. -/
def profileStateCode : ProfileState → Nat
  | .blank => 0
  | .written => 1
  | .torn => 2

/-- R174 words 8 to 10: FREE 0, FILLING 1, READY 2, REGISTERING 3, PLACED 4. -/
def slotCode : Option CapturedFrame → Nat
  | none => 0
  | some f =>
    match f.state with
    | .filling => 1
    | .ready => 2
    | .registering => 3
    | .placed => 4

/-- R23: RIGHTWARD 0, LEFTWARD 1. -/
def directionCode : Direction → Nat
  | .rightward => 0
  | .leftward => 1

/-- R193: the default slot, 4 for NONE. -/
def defaultCode : Option (Fin 4) → Nat
  | none => 4
  | some i => i.val

/-- A 16-bit counter saturates at 65535 (section 9.6). -/
def saturate16 (n : Nat) : Nat := min 65535 n

/-- The keypoint count and the overflowed cell count of a finished list; both absent before READY (R71, R75). -/
def detectionCounts : Detection → Nat × Nat
  | .working _ _ _ _ => (0, 0)
  | .finished kps ov => (kps.length, ov.countP id)

end Sys2Proof.Machine
end

