-- ==== Sys2Proof/Machine/Matching.lean ====
section
/-! DEFINITION. Chapter 6 as pure functions: anchors, prediction, search, claims, votes, acceptance, refinement. -/

namespace Sys2Proof.Machine

/-! ### Descriptors (6.4) -/

/-- R107: bit i of the rotated code is bit (i - r) mod 16 of the original. -/
def rotateCode (r : BitVec 4) (code : Half) : Half := code.rotateLeft r.toNat

/-- The number of bit positions set. -/
def bitCount (code : Half) : Nat := (List.range 16).countP fun i => code.getLsbD i

/-- R108: the bit positions in which two descriptors differ, over both codes. -/
def descriptorDistance (ring₁ chord₁ ring₂ chord₂ : Half) : Nat :=
  bitCount (ring₁ ^^^ ring₂) + bitCount (chord₁ ^^^ chord₂)

/-! ### The anchor table (6.1) -/

/-- R97: table order, ax, then ay, then source index. -/
def anchorBefore (a b : Anchor) : Bool :=
  decide (a.ax < b.ax ∨ (a.ax = b.ax ∧ (a.ay < b.ay ∨ (a.ay = b.ay ∧ a.source ≤ b.source))))

/-- R98 step 2: the anchor of a keypoint record of a frame placed at origin o with roll step r. -/
def anchorOf (m : ColumnMap) (o : Point) (r : BitVec 4) (k : Keypoint) : Anchor :=
  let p := project m k.x k.y
  ⟨o.x + p.x, o.y + p.y, k.polarity, rotateCode r k.ring, rotateCode r k.chord, k.index, none⟩

/-- R98: the table rebuilt from a keypoint list. -/
def buildAnchors (m : ColumnMap) (o : Point) (r : BitVec 4) (kps : List Keypoint) : List Anchor :=
  (kps.map (anchorOf m o r)).insertionSort fun a b => anchorBefore a b

/-- R99: every claim made absent. -/
def clearClaims (as : List Anchor) : List Anchor := as.map fun a => { a with claim := none }

/-! ### Prediction (6.3) -/

/-- Clamped to -32767..32767 (R105). -/
def clampDisplacement (i : Int) : Int := max (-32767) (min 32767 i)

/-- R105. -/
def predict (rec : FrameRecord) (hd : AnchorHeader) (deltaLast : Point) : Point :=
  if rec.broken = hd.broken then
    ⟨clampDisplacement (rec.hintX - hd.hintX).toInt, clampDisplacement (rec.hintY - hd.hintY).toInt⟩
  else deltaLast

/-! ### Search and claims (6.5, 6.6) -/

/-- What a registration reads beside the lists (R101). -/
structure MatchInputs where
  map        : ColumnMap
  params     : SweepParams
  origin     : Point
  pred       : Point
  roll       : BitVec 4

/-- R109: the search point of a candidate. -/
def searchPoint (i : MatchInputs) (k : Keypoint) : Point :=
  let p := project i.map k.x k.y
  ⟨i.origin.x + i.pred.x + p.x, i.origin.y + i.pred.y + p.y⟩

/-- R109: an anchor eligible for a candidate with search point P. -/
def eligible (i : MatchInputs) (k : Keypoint) (p : Point) (a : Anchor) : Bool :=
  decide (a.polarity = k.polarity ∧ (a.ax - p.x).natAbs ≤ i.params.rx ∧ (a.ay - p.y).natAbs ≤ i.params.ry)

/-- R107, R108: the distance of a candidate, rotated by its frame's roll step, to an anchor. -/
def candidateDistance (i : MatchInputs) (k : Keypoint) (a : Anchor) : Nat :=
  descriptorDistance (rotateCode i.roll k.ring) (rotateCode i.roll k.chord) a.ring a.chord

/-- R110: the scan of the anchors from index n on, in table order; the best so far is replaced only by a strictly lower
distance, and the scan stops at the first distance at most early. -/
def scan (ok : Anchor → Bool) (dist : Anchor → Nat) (early : Nat) : Nat → Option Claim → List Anchor → Option Claim
  | _, best, [] => best
  | n, best, a :: rest =>
    if ok a then
      let best' := match best with
        | none => some ⟨n, dist a⟩
        | some b => if dist a < b.distance then some ⟨n, dist a⟩ else some b
      if dist a ≤ early then best' else scan ok dist early (n + 1) best' rest
    else scan ok dist early (n + 1) best rest

/-- The list with the element at an index changed. -/
def updateAt {α : Type} (l : List α) (i : Nat) (f : α → α) : List α :=
  match l[i]? with
  | none => l
  | some a => l.set i (f a)

/-- The anchors and the keypoint list while claims are settled. -/
structure Claims where
  anchors   : List Anchor
  keypoints : List Keypoint
  deriving DecidableEq, Repr

/-- R112: candidate q's claim attempt on the anchor with index a at distance d. -/
def attemptClaim (st : Claims) (q : Nat) (best : Claim) : Claims :=
  let take : Claims → Claims := fun st =>
    ⟨updateAt st.anchors best.index fun a => { a with claim := some ⟨q, best.distance⟩ },
      updateAt st.keypoints q fun k => { k with matched := some best }⟩
  match (st.anchors[best.index]?).bind (·.claim) with
  | none => take st
  | some held =>
    if best.distance < held.distance then
      take { st with keypoints := updateAt st.keypoints held.index fun k => { k with matched := none } }
    else st

/-- R109 to R112: one candidate searched for and its claim attempt settled. -/
def searchCandidate (i : MatchInputs) (st : Claims) (k : Keypoint) : Claims :=
  match scan (eligible i k (searchPoint i k)) (candidateDistance i k) i.params.early 0 none st.anchors with
  | none => st
  | some best => if best.distance ≤ i.params.dmax then attemptClaim st k.index best else st

/-- Every candidate in list order (R109). -/
def settleClaims (i : MatchInputs) (anchors : List Anchor) (kps : List Keypoint) : Claims :=
  kps.foldl (searchCandidate i) ⟨anchors, kps⟩

/-! ### Votes (6.7) -/

/-- R114: the displacement of each claim, from the candidates whose match is present. -/
def claimDisplacements (i : MatchInputs) (st : Claims) : List Point :=
  st.keypoints.filterMap fun k =>
    match k.matched with
    | none => none
    | some c => (st.anchors[c.index]?).map fun a =>
        let p := project i.map k.x k.y
        ⟨a.ax - i.origin.x - p.x, a.ay - i.origin.y - p.y⟩

/-- R114: the bin of a displacement. -/
def binOf (pred d : Point) : Point := ⟨(d.x - pred.x) / 16 + 16, (d.y - pred.y) / 16 + 8⟩

/-- The bin that entry n of the vote grid stands for. -/
def gridBin (n : Nat) : Point := ⟨((n % 32 : Nat) : Int), ((n / 32 : Nat) : Int)⟩

/-- R114: the vote grid of the bins voted for. -/
def voteGrid (bins : List Point) : List Nat := (List.range 512).map fun n => bins.count (gridBin n)

/-- R115's first key: |bx - 16| + |by - 8|. -/
def binDistance (b : Point) : Nat := (b.x - 16).natAbs + (b.y - 8).natAbs

/-- R115: bin a wins against bin b. -/
def binBeats (votes : List Nat) (a b : Nat) : Bool :=
  let va := votes.getD a 0
  let vb := votes.getD b 0
  let pa := gridBin a
  let pb := gridBin b
  decide (vb < va ∨ (va = vb ∧ (binDistance pa < binDistance pb ∨
    (binDistance pa = binDistance pb ∧ (pa.y < pb.y ∨ (pa.y = pb.y ∧ pa.x < pb.x))))))

/-- R115: the winning bin. -/
def winningBin (votes : List Nat) : Nat :=
  (List.range 512).foldl (fun best n => if binBeats votes n best then n else best) 0

/-- R116: a bin lies in the 3 x 3 block centred on the winner. -/
def inBlock (winner b : Point) : Bool := decide ((b.x - winner.x).natAbs ≤ 1 ∧ (b.y - winner.y).natAbs ≤ 1)

/-! ### Acceptance and refinement (6.8) -/

/-- R118: a mean of n values with sum s, to the nearest integer, halves away from zero. -/
def meanAwayFromZero (s : Int) (n : Nat) : Int :=
  if 0 ≤ s then (2 * s + n) / (2 * n) else -((-2 * s + n) / (2 * n))

/-- What a registration finds (R113 to R118). `reason` is `none` for an accepted frame; `delta` is its refined displacement. -/
structure MatchResult where
  claims  : Claims
  votes   : List Nat
  count   : Nat
  support : Nat
  reason  : FailReason
  delta   : Point

/-- The inliers' displacements (R116): those whose bins lie in the winner's block; none when there is no claim. -/
def inliers (pred : Point) (votes : List Nat) (ds : List Point) : List Point :=
  ds.filter fun d => inBlock (gridBin (winningBin votes)) (binOf pred d)

/-- R117: the first acceptance test that fails. -/
def acceptance (count support minSupport : Nat) : FailReason :=
  if count = 0 then .tooFew else if support < minSupport then .tooFew
  else if 2 * support < count then .noConsensus else .none

/-- A registration carried out to the end: claims, votes, winner, support, acceptance, refinement (R109 to R118). -/
def register (i : MatchInputs) (anchors : List Anchor) (kps : List Keypoint) : MatchResult :=
  let st := settleClaims i anchors kps
  let ds := claimDisplacements i st
  let votes := voteGrid (ds.map (binOf i.pred))
  let inl := inliers i.pred votes ds
  { claims := st, votes := votes, count := ds.length, support := inl.length,
    reason := acceptance ds.length inl.length i.params.minSupport,
    delta := ⟨meanAwayFromZero (inl.map (·.x)).sum inl.length, meanAwayFromZero (inl.map (·.y)).sum inl.length⟩ }

/-- R119: the classification of an accepted frame; `none` hands it to placement. -/
def classify (p : SweepParams) (h : Nat) (origin delta : Point) : Option FrameOutcome :=
  if delta.x < -(p.tRev : Int) then some .reversed
  else if 4 * (p.margin + h / 2) < (origin.y - 4 * p.margin).natAbs then some .drifted
  else if delta.x < p.aMin then some .slow
  else none

end Sys2Proof.Machine
end

