-- ==== Sys2Proof/Machine/Ops.lean ====
section
/-! DEFINITION. The shared operations over State: notes and replies, outcomes and sweep changes, slots, sealing, draining, the
run's settlement, and the outlet arbiter. -/

namespace Sys2Proof.Machine

/-! ### Notes (R170 to R172) -/

/-- The note queue's slots (section 9.3). -/
def noteSlots : Nat := 16

/-- A raised event handled by the note unit (R172). -/
def raiseNote (k : EventKind) (payload : List Word) (n : NoteUnit) : NoteUnit :=
  match n.pending.get k with
  | some p => { n with pending := n.pending.set k (some ⟨payload, min 255 (p.superseded + 1)⟩) }
  | none =>
    if n.unmasked.get k ∧ n.queue.length < noteSlots then { n with queue := n.queue ++ [.event k 0 payload] }
    else { n with pending := n.pending.set k (some ⟨payload, 0⟩) }

/-- A block raises an event (section 9.4). -/
def raise (k : EventKind) (payload : List Word) (s : State) : State :=
  { s with notes := raiseNote k payload s.notes }

/-- R171: the waiting replies that free note slots take, oldest first. -/
def repliesPlaced (n : NoteUnit) : List WaitingReply := n.replies.take (noteSlots - n.queue.length)

/-- R171 step 1. -/
def fillReplies (n : NoteUnit) : NoteUnit :=
  { n with queue := n.queue ++ (repliesPlaced n).map (·.note), replies := n.replies.drop (noteSlots - n.queue.length) }

/-- R171 step 2, for one kind: an unmasked pending kind is emitted into a free slot and its record cleared. -/
def emitPending (n : NoteUnit) (k : EventKind) : NoteUnit :=
  match n.pending.get k with
  | none => n
  | some p =>
    if n.unmasked.get k ∧ n.queue.length < noteSlots then
      { n with queue := n.queue ++ [.event k p.superseded p.payload], pending := n.pending.set k none }
    else n

/-- R171: the note unit fills its free slots. -/
def fillNotes (n : NoteUnit) : NoteUnit := eventKinds.foldl emitPending (fillReplies n)

/-- R171, with what the placing of a reply tells its maker: the directive unit becomes FREE (R167), the profile store ceases
to be busy (R168). -/
def fill (s : State) : State :=
  let placed := repliesPlaced s.notes
  { s with
    notes := fillNotes s.notes
    dirs := { s.dirs with replyWaiting := s.dirs.replyWaiting && !(placed.any fun r => r.source = .directiveUnit) }
    store := { s.store with busy := if placed.any fun r => r.source = .profileStore then none else s.store.busy } }

/-- R167: the directive unit hands over the reply of the directive it took; it waits if no slot is free. -/
def replyTo (body : List Byte) (result : ResultCode) (payload : List Word) (s : State) : State :=
  fill { s with
    notes := { s.notes with
      replies := s.notes.replies ++ [⟨.directiveUnit, .reply (dirTag body) (dirCode body) result payload⟩] }
    dirs := { s.dirs with replyWaiting := true } }

/-- R168: the profile store hands over the reply of a completed operation. -/
def storeReply (code : Byte) (result : ResultCode) (payload : List Word) (s : State) : State :=
  fill { s with
    notes := { s.notes with replies := s.notes.replies ++ [⟨.profileStore, .reply s.store.tag code result payload⟩] } }

/-! ### Frame slots -/

/-- A slot by number. -/
def FrameSlots.get (f : FrameSlots) : Fin 3 → Option CapturedFrame
  | 0 => f.s0
  | 1 => f.s1
  | 2 => f.s2

/-- The slots with one of them replaced. -/
def FrameSlots.set (f : FrameSlots) (i : Fin 3) (x : Option CapturedFrame) : FrameSlots :=
  match i with
  | 0 => { f with s0 := x }
  | 1 => { f with s1 := x }
  | 2 => { f with s2 := x }

/-- The state of a slot; `none` is FREE. -/
def slotState (s : State) (i : Fin 3) : Option SlotState := (s.capture.slots.get i).map (·.state)

/-- The oldest slot of the capture order in a state (R47, R100). -/
def oldestIn (st : SlotState) (s : State) : Option (Fin 3) :=
  s.capture.order.find? fun i => decide (slotState s i = some st)

/-- The three slot numbers in order. -/
def slotNumbers : List (Fin 3) := [0, 1, 2]

/-- The lowest-numbered slot in a state. -/
def lowestIn (st : Option SlotState) (s : State) : Option (Fin 3) :=
  slotNumbers.find? fun i => decide (slotState s i = st)

/-- The slot that is FILLING, if any (R47: at most one). -/
def fillingSlot (s : State) : Option (Fin 3) := lowestIn (some .filling) s

/-- The lowest-numbered FREE slot (R48 step 5). -/
def freeSlotNumber (s : State) : Option (Fin 3) := lowestIn none s

/-- A slot with its frame replaced. -/
def setSlot (i : Fin 3) (f : CapturedFrame) (s : State) : State :=
  { s with capture := { s.capture with slots := s.capture.slots.set i (some f) } }

/-- The slot becomes FREE: frame record, stored frame and detection context are discarded and it leaves the capture order
(R46, R57, R60). -/
def freeSlot (i : Fin 3) (s : State) : State :=
  { s with capture :=
      { s.capture with slots := s.capture.slots.set i none, order := s.capture.order.filter fun j => decide (j ≠ i) } }

/-- The sweep captures frames (R22). -/
def capturing (st : SweepState) : Bool := decide (st = .armed ∨ st = .tracking ∨ st = .coasting)

/-! ### Sweep state and outcomes -/

/-- R40: the end summary. -/
def summaryWords (s : State) : List Word :=
  let crop := s.ring.crop.getD ⟨0, 0⟩
  [natWord s.sweep.framesComposited, natWord s.sweep.tilesEmitted, intWord (s.placement.e + 1), intWord s.placement.e,
    natWord crop.top, natWord (crop.bottom + 65536 * s.ring.crop.isSome.toNat)]

/-- R21: the payload of SWEEP_STATE. -/
def sweepStateWords (s : State) : List Word :=
  [natWord (sweepStateCode s.sweep.state), natWord (endCauseCode s.sweep.cause), natWord s.sweep.id,
    natWord s.sweep.coast] ++ summaryWords s

/-- R21: a change of sweep state, with its cause, raises SWEEP_STATE. -/
def changeSweep (st : SweepState) (cause : EndCause) (s : State) : State :=
  let s1 := { s with sweep := { s.sweep with state := st, cause := cause } }
  raise .sweepState (sweepStateWords s1) s1

/-- R41 steps 2 and 3: the outcome is counted and FRAME_OUTCOME raised with its record. -/
def recordOutcome (r : OutcomeRecord) (s : State) : State :=
  let good := countsAsComposited r.outcome
  let c := s.counters
  let s1 := { s with
    sweep := { s.sweep with
      framesComposited :=
        if good then saturate16 (s.sweep.framesComposited + 1) else s.sweep.framesComposited }
    counters := if good then { c with framesComposited := saturate16 (c.framesComposited + 1) }
      else { c with framesNotComposited := saturate16 (c.framesNotComposited + 1) } }
  raise .frameOutcome (outcomeWords r s1.sweep.id s1.sweep.coast) s1

/-- R42, R58: the record of a DISCARDED frame; the counts are present once its list is complete. -/
def discardRecord (f : CapturedFrame) : OutcomeRecord :=
  { seq := f.record.seq, outcome := .discarded, keypoints := (detectionCounts f.detection).1,
    overflow := (detectionCounts f.detection).2, repaired := f.record.repaired }

/-- R58: a slot is freed and its frame receives DISCARDED. DISCARDED leaves the coast counter unchanged (R30). -/
def discardSlot (s : State) (i : Fin 3) : State :=
  match s.capture.slots.get i with
  | none => s
  | some f => recordOutcome (discardRecord f) (freeSlot i s)

/-- R58: every FILLING and READY slot discarded, in capture order. -/
def discardCaptured (s : State) : State :=
  (s.capture.order.filter fun i => decide (slotState s i = some .filling ∨ slotState s i = some .ready)).foldl discardSlot s

/-! ### Tiles: starvation, sealing, draining -/

/-- R165: the payload of CREDIT_STARVED. -/
def starvedWords (s : State) : List Word :=
  [natWord s.sweep.id, natWord (s.ring.sealedQueue.headD 0), natWord s.ring.sealedQueue.length,
    natWord s.ring.tiles.length]

/-- R165: a starvation episode begins, unless one is in progress. -/
def beginStarvation (s : State) : State :=
  if s.ring.starved then s
  else
    let s1 := { s with ring := { s.ring with starved := true } }
    raise .creditStarved (starvedWords s1) s1

/-- R151, R152, R165: an OPEN tile seals: it joins the tail of the sealed queue, its columns are folded into the crop
accumulator, and if it becomes the head while the credits are 0 an episode begins. -/
def sealTile (s : State) (t : Tile) : State :=
  let s1 := { s with ring := { s.ring with
    tiles := s.ring.tiles.map fun u => if u.index = t.index then { u with state := .sealed } else u
    sealedQueue := s.ring.sealedQueue ++ [t.index]
    crop := foldCrop s.ring.crop t } }
  if s.ring.sealedQueue = [] ∧ s.ring.credits = 0 then beginStarvation s1 else s1

/-- F, the number of weights of the working FEATHER table. -/
def featherCount (t : Tables) : Nat := ((t.feather.map (·.values)).getD []).length

/-- R150: the seal condition. -/
def sealable (s : State) (t : Tile) : Bool :=
  decide (t.state = .opened ∧ t.writers = 0) &&
    (decide (s.sweep.state = .draining) ||
      (decide (s.sweep.state = .tracking ∨ s.sweep.state = .coasting) &&
        decide ((64 * t.index + 63 : Nat) ≤ s.placement.e - featherCount s.tables)))

/-- R151: an examination seals, in increasing index, every OPEN tile that meets the condition. -/
def examineTiles (s : State) : State := (s.ring.tiles.filter (sealable s)).foldl sealTile s

/-- R36: the three conditions of a complete drain, in DRAINING. -/
def drainComplete (s : State) : Bool :=
  decide (s.sweep.state = .draining) && (lowestIn (some .registering) s).isNone && s.comp.queue.isEmpty && !s.comp.writing &&
    s.ring.tiles.isEmpty

/-- R36: the drain is tested, and when complete the sweep moves to ENDED with the cause unchanged. -/
def testDrain (s : State) : State := if drainComplete s then changeSweep .ended s.sweep.cause s else s

/-- R34: entry to DRAINING: SWEEP_STATE is raised, capture stops and the slots are discarded, the OPEN tiles are examined
under the drain rule, and the drain is tested. -/
def enterDraining (cause : EndCause) (s : State) : State :=
  testDrain (examineTiles (discardCaptured (changeSweep .draining cause s)))

/-- R30, R41 step 4: in TRACKING and COASTING the state follows the coast counter; the seed's SEED moves ARMED to TRACKING. -/
def followCoast (o : FrameOutcome) (e : CoastEffect) (s : State) : State :=
  match s.sweep.state with
  | .armed => if o = .seed then changeSweep .tracking .none s else s
  | .tracking =>
    if e = .increment then
      if s.sweep.params.coastLimit ≤ s.sweep.coast then enterDraining (coastCause o) s
      else changeSweep .coasting s.sweep.cause s
    else s
  | .coasting =>
    match e with
    | .increment => if s.sweep.params.coastLimit ≤ s.sweep.coast then enterDraining (coastCause o) s else s
    | .clear => changeSweep .tracking s.sweep.cause s
    | .keep => s
  | .idle | .draining | .ended => s

/-- R41: a decided outcome, whole: the coast counter, the counts, FRAME_OUTCOME, and the state that follows. -/
def decideOutcome (r : OutcomeRecord) (s : State) : State :=
  let e := coastEffect r.outcome s.sweep.state
  followCoast r.outcome e (recordOutcome r
    { s with sweep := { s.sweep with coast := coastAfter e s.sweep.coast s.sweep.params.coastLimit } })

/-- R28: the width limit is taken in TRACKING and COASTING when placement left E at Wmax - 1. -/
def takeWidthLimit (s : State) : State :=
  if (s.sweep.state = .tracking ∨ s.sweep.state = .coasting) ∧ s.placement.e = s.sweep.params.wmax - 1 then
    enterDraining .widthLimit s
  else s

/-! ### Emptying the sweep side -/

/-- The tile emitter's packet is on the outlet. -/
def tileOnOutlet (s : State) : Bool :=
  match s.outlet.sending with
  | none => false
  | some p => decide (p.claimant = .tile)

/-- R164: what becomes of the run in progress when the ring is emptied. -/
def settleRun (s : State) : State :=
  match s.ring.run with
  | none => s
  | some r =>
    match r.next, tileOnOutlet s with
    | .head, false => { s with ring := { s.ring with run := none, credits := min 255 (s.ring.credits + 1) } }
    | .row _, false => { s with ring := { s.ring with run := some { r with status := .abandoned, next := .tileEnd } } }
    | .tileEnd, true => s
    | _, _ => { s with ring := { s.ring with run := some { r with status := .abandoned } } }

/-- R164: the ring and the sealed queue emptied, the starved flag cleared (R149), the run settled. -/
def emptyRing (s : State) : State :=
  settleRun { s with ring := { s.ring with tiles := [], sealedQueue := [], starved := false } }

/-- R142: the composite queue emptied, any composite abandoned. -/
def emptyCompositor (s : State) : State := { s with comp := ⟨false, []⟩ }

/-- R102, R104, R123: any registration abandoned, claims absent, vote grid and prediction zero; the anchors stay. -/
def stopRegistration (s : State) : State :=
  { s with reg :=
    { s.reg with
      engine := .waiting, work := none, anchors := clearClaims s.reg.anchors, pred := ⟨0, 0⟩, votes := emptyVotes
      handover := none } }

/-! ### The outlet arbiter (R12 to R15) -/

/-- The packet the emitter offers (R156, R158 to R161). -/
def runPacket (s : State) (r : Run) : Packet :=
  match r.next with
  | .head => tileHeadPacket r s.sweep.params.direction s.sweep.hc
  | .row n =>
    tileRowPacket ((s.ring.tiles.find? fun t => decide (t.index = r.tile)).getD (freshTile s.sweep.hc r.tile)) r.columns n
      s.sweep.params.direction
  | .tileEnd => tileEndPacket r

/-- A packet is started on the idle lane. -/
def startPacket (c : Claimant) (p : Packet) (s : State) : State :=
  { s with outlet := { s.outlet with sending := some ⟨c, p, false⟩ } }

/-- R161: the start of a TILEEND whose status is COMPLETE counts in the sweep's tiles emitted. -/
def startTilePacket (r : Run) (s : State) : State :=
  let s1 := startPacket .tile (runPacket s r) s
  if r.next = .tileEnd ∧ r.status = .complete then
    { s1 with sweep := { s1.sweep with tilesEmitted := s1.sweep.tilesEmitted + 1 } }
  else s1

/-- R13, R14: with the lane idle and not held, the first claimant that offers a packet is started: the forward queue, the note
queue, the tile emitter. Applied at the end of every event, and within an OPEN between the capture unit's offers and the forward
queue's (R9, log 8). The start belongs to the event that makes the offer. -/
def arbitrate (s : State) : State :=
  if s.power ≠ .running ∨ s.holdLine ∨ s.outlet.sending.isSome then s
  else
    match s.forward, s.notes.queue, s.ring.run with
    | p :: _, _, _ => startPacket .forward p s
    | [], n :: _, _ => startPacket .note (notePacket n) s
    | [], [], some r => startTilePacket r s
    | [], [], none => s

/-- An event of the running part: when it is enabled, its effect and then the arbiter's choice; otherwise it does not come and
the state stands (log 1). -/
def event (enabled : State → Bool) (effect : State → State) (s : State) : Host.Outcome State Fault Refusal :=
  if s.power = .running ∧ enabled s then .next (arbitrate (effect s)) else .next s

/-! ### Taking a directive (R167) -/

/-- The directive unit is FREE and the head of the directive queue has a code that `is` accepts. -/
def canTake (is : Byte → Bool) (s : State) : Bool :=
  !s.dirs.replyWaiting &&
    match s.dirs.queue with
    | [] => false
    | body :: _ => is (dirCode body)

/-- The head of the directive queue. -/
def headBody (s : State) : List Byte := s.dirs.queue.headD []

/-- The head directive removed from the queue. -/
def popDirective (s : State) : State := { s with dirs := { s.dirs with queue := s.dirs.queue.tail } }

/-- R167: a take of a directive whose code `is` accepts; `act` is given its body and the state without it. -/
def takeDirective (is : Byte → Bool) (act : List Byte → State → State) (s : State) : Host.Outcome State Fault Refusal :=
  event (canTake is) (fun s => act (headBody s) (popDirective s)) s

/-- R167 check 2: the parameter words, when their count is the one required; otherwise FORMAT. -/
def withParams (n : Nat) (body : List Byte) (act : List Nat → State → State) (s : State) : State :=
  match dirParams body with
  | none => replyTo body .format [] s
  | some ps => if ps.length = n then act ps s else replyTo body .format [] s

end Sys2Proof.Machine
end

