-- ==== Sys2Proof/Machine/Capture.lean ====
section
/-! DEFINITION. Chapter 3's work inside an inlet event: the hint chain, taking an OPEN, storing and making up rows, DAMAGED,
READY. -/

namespace Sys2Proof.Machine

/-! ### OPEN (R44 to R49) -/

/-- R44: sequence and OPENS_SEEN. R45: the hint chain. -/
def countOpen (f : OpenFields) (s : State) : State :=
  { s with
    capture := { s.capture with
      seq := s.capture.seq + 1
      sumX := if f.hinted then s.capture.sumX + f.dx else s.capture.sumX
      sumY := if f.hinted then s.capture.sumY + f.dy else s.capture.sumY
      broken := if f.hinted then s.capture.broken else s.capture.broken + 1 }
    counters := { s.counters with opensSeen := saturate16 (s.counters.opensSeen + 1) } }

/-- R46: the roll step: the hint's, negated in a LEFTWARD sweep, or the anchor frame's where there is no hint. -/
def recordedRoll (f : OpenFields) (s : State) : BitVec 4 :=
  if f.hinted then
    match s.sweep.params.direction with
    | .rightward => f.roll
    | .leftward => -f.roll
  else s.placement.roll

/-- R46: the frame record written at the OPEN. -/
def newRecord (f : OpenFields) (s : State) : FrameRecord where
  seq := s.capture.seq
  hintX := match s.sweep.params.direction with
    | .rightward => s.capture.sumX
    | .leftward => -s.capture.sumX
  hintY := s.capture.sumY
  broken := s.capture.broken
  exposure := f.exposure
  roll := recordedRoll f s
  w := f.w
  h := f.h
  nextLine := 0
  missing := 0
  repaired := false

/-- R48 step 5, R60: a slot becomes FILLING with the frame's record and a fresh detection context. -/
def takeSlot (i : Fin 3) (f : OpenFields) (s : State) : State :=
  { s with capture :=
      { s.capture with
        slots := s.capture.slots.set i (some ⟨.filling, newRecord f s, [], [], freshDetection⟩)
        order := s.capture.order ++ [i] } }

/-- R55: the frame in slot i becomes DAMAGED: the slot is freed and the outcome decided. -/
def damageFrame (i : Fin 3) (s : State) : State :=
  match s.capture.slots.get i with
  | none => s
  | some f => decideOutcome { seq := f.record.seq, outcome := .damaged, repaired := f.record.repaired } (freeSlot i s)

/-- A FILLING frame, if there is one, becomes DAMAGED (R48 step 2, R8). -/
def damageFilling (s : State) : State :=
  match fillingSlot s with
  | none => s
  | some i => damageFrame i s

/-- R49, R31: the GEOMETRY outcome, the slots discarded, then the move: ARMED to ENDED, TRACKING or COASTING to DRAINING. -/
def geometryOutcome (s : State) : State :=
  let s1 := discardCaptured (recordOutcome { seq := s.capture.seq, outcome := .geometry } s)
  if s.sweep.state = .armed then changeSweep .ended .geometry s1 else enterDraining .geometry s1

/-- R48 steps 3 to 6, once any FILLING frame has been ended. -/
def captureOpen (f : OpenFields) (s : State) : State :=
  if capturing s.sweep.state then
    if f.w = (workingMap s.tables).wFor ∧ f.h = (workingMap s.tables).hFor then
      match freeSlotNumber s with
      | some i => takeSlot i f s
      | none => recordOutcome { seq := s.capture.seq, outcome := .notCaptured } s
    else geometryOutcome s
  else s

/-- The capture unit's whole handling of an OPEN (R48); in IDLE, DRAINING and ENDED only step 1. -/
def captureOpenPacket (body : List Byte) (s : State) : State :=
  let f := readOpen body
  let s1 := countOpen f s
  if capturing s.sweep.state then captureOpen f (damageFilling s1) else s1

/-! ### Rows (R50 to R54) -/

/-- A run cut or extended to n elements by repeating its last one, or n times the fill when it is empty (R52). -/
def fitRun {α : Type} (n : Nat) (fill : α) (run : List α) : List α :=
  match run.getLast? with
  | none => List.replicate n fill
  | some x => run.take n ++ List.replicate (n - run.length) x

/-- The whole (Cb, Cr) pairs of a chroma run; a trailing lone byte is disregarded (R52). -/
def chromaPairs : List Byte → List (Byte × Byte)
  | a :: b :: rest => (a, b) :: chromaPairs rest
  | _ => []

/-- R52: either run was cut, extended or replaced, or a lone chroma byte disregarded. -/
def lineNeedsRepair (w : Nat) (body : List Byte) : Bool :=
  decide ((lumaRun body).length ≠ w) ||
    (decide (lineNumber body % 2 = 0) && decide ((chromaRun body).length ≠ 2 * (w / 2)))

/-- The sweep's detection threshold and the frame's size, applied to a row offer (R60, R61). -/
def offerStored (tau : Nat) (f : CapturedFrame) : CapturedFrame :=
  { f with detection := offerRow tau f.record.w f.record.h f.luma f.detection }

/-- A row stored (R53, R54): luma, on an even row chroma, the next expected line advanced, the row offered to the detector. -/
def storeRow (tau : Nat) (luma : List Byte) (chroma : List (Byte × Byte)) (f : CapturedFrame) : CapturedFrame :=
  offerStored tau { f with
    luma := f.luma ++ [luma]
    chroma := if f.record.nextLine % 2 = 0 then f.chroma ++ [chroma] else f.chroma
    record := { f.record with nextLine := f.record.nextLine + 1 } }

/-- R51: one missing row made up, a copy of the last stored luma row and, on an even row, of the last stored chroma row; fill
where nothing is stored yet. -/
def makeUpRow (tau : Nat) (f : CapturedFrame) : CapturedFrame :=
  storeRow tau (f.luma.getLastD (List.replicate f.record.w 0)) (f.chroma.getLastD (List.replicate (f.record.w / 2) (128, 128))) f

/-- R51: n missing rows made up, in increasing order. -/
def makeUpRows (tau : Nat) : Nat → CapturedFrame → CapturedFrame
  | 0, f => f
  | n + 1, f => makeUpRows tau n (makeUpRow tau f)

/-- R51: the record after a gap of n rows is made up. -/
def countMissing (n : Nat) (f : CapturedFrame) : CapturedFrame :=
  if n = 0 then f
  else { f with record := { f.record with missing := f.record.missing + n, repaired := true } }

/-- LINES_REPAIRED rises by n, saturating (R51, R52). -/
def addLinesRepaired (n : Nat) (s : State) : State :=
  { s with counters := { s.counters with linesRepaired := saturate16 (s.counters.linesRepaired + n) } }

/-- R52, R54: a line stored as the next row, its runs fitted to the frame's width and mirrored in a LEFTWARD sweep. -/
def storeLine (tau : Nat) (d : Direction) (body : List Byte) (f : CapturedFrame) : CapturedFrame :=
  let luma := inSceneOrder d (fitRun f.record.w 0 (lumaRun body))
  let chroma := inSceneOrder d (fitRun (f.record.w / 2) (128, 128) (chromaPairs (chromaRun body)))
  storeRow tau luma chroma
    { f with record := { f.record with repaired := f.record.repaired || lineNeedsRepair f.record.w body } }

/-- R50 to R52: a LINE while slot i, holding f, is FILLING. -/
def captureLine (i : Fin 3) (f : CapturedFrame) (body : List Byte) (s : State) : State :=
  let n := lineNumber body
  if f.record.h ≤ n ∨ n < f.record.nextLine then s
  else
    let gap := n - f.record.nextLine
    if 8 < f.record.missing + gap then damageFrame i s
    else
      let tau := s.sweep.params.tau
      let f1 := countMissing gap (makeUpRows tau gap f)
      addLinesRepaired (gap + (lineNeedsRepair f.record.w body).toNat)
        (setSlot i (storeLine tau s.sweep.params.direction body f1) s)

/-- The capture unit's handling of a LINE (R50, R56). -/
def captureLinePacket (body : List Byte) (s : State) : State :=
  match fillingSlot s with
  | none => s
  | some i =>
    match s.capture.slots.get i with
    | none => s
    | some f => captureLine i f body s

/-- R53, R72: a SHUT while slot i, holding f, is FILLING: bottom rows made up and the slot READY with its keypoint list, or
DAMAGED. -/
def captureShut (i : Fin 3) (f : CapturedFrame) (s : State) : State :=
  let gap := f.record.h - f.record.nextLine
  if 8 < f.record.missing + gap then damageFrame i s
  else
    let f1 := countMissing gap (makeUpRows s.sweep.params.tau gap f)
    addLinesRepaired gap (setSlot i { f1 with state := .ready, detection := finishDetection f1.detection } s)

/-- The capture unit's handling of a SHUT (R53, R56). -/
def captureShutPacket (s : State) : State :=
  match fillingSlot s with
  | none => s
  | some i =>
    match s.capture.slots.get i with
    | none => s
    | some f => captureShut i f s

end Sys2Proof.Machine
end

