-- ==== Sys2Proof/Machine/InletCommands.lean ====
section
/-! DEFINITION. The inlet receiver's events: HUNT_LOCK, SYNC_LOSS, OPEN, LINE, SHUT, DIR (chapter 1, R166). -/

namespace Sys2Proof.Machine

/-- The receiver after n further bytes of the lane, at this framing (R1: bytes alternate between the two data lanes). -/
def setFraming (f : Framing) (n : Nat) (s : State) : State :=
  { s with inlet := ⟨f, (s.inlet.lane + n) % 2⟩ }

/-- The bytes of the search that HUNT still keeps (R6, R8). -/
def huntBytes (s : State) : List Byte :=
  match s.inlet.framing with
  | .hunt b => b
  | .locked _ => []

/-- The receiver is in HUNT. -/
def inHunt (s : State) : Bool :=
  match s.inlet.framing with
  | .hunt _ => true
  | .locked _ => false

/-- R6: the search goes on over the bytes kept and the new ones. A valid header locks, and bytes behind it are the first of
its body. The body's last byte makes the packet whole and hands it on at once (R7): it comes with the packet's own command, so
it and the bytes behind it are not taken here (log 15). -/
def huntStep (bytes : List Byte) (s : State) : State :=
  match huntSearch (huntBytes s ++ bytes) with
  | .inl (kind, n, rest) =>
    setFraming (.locked (some ⟨kind, n, rest.take (n - 1)⟩)) (bytes.length - (rest.length - (n - 1))) s
  | .inr rest => setFraming (.hunt rest) bytes.length s

/-- HUNT_LOCK (R6). -/
def execHuntLock (bytes : List Byte) (s : State) : Host.Outcome State Fault Refusal :=
  event inHunt (huntStep bytes) s

/-- The receiver is LOCKED and the next six bytes are a header to test (R7). -/
def awaitsHeader (s : State) : Bool := decide (s.inlet.framing = .locked none)

/-- R8: reason, kind byte seen or 0 for NO_SYNC, sequence of the most recent OPEN. -/
def linkSyncWords (f : HeaderFault) (header : List Byte) (s : State) : List Word :=
  [natWord (headerFaultCode f), natWord (if f = .noSync then 0 else (byteAt header 2).toNat), natWord s.capture.seq.toNat]

/-- R8: sync is lost; the search resumes at the byte after the first byte of the failed header. -/
def loseSync (f : HeaderFault) (header : List Byte) (s : State) : State :=
  let s1 := raise .linkSync (linkSyncWords f header s) (setFraming (.hunt (header.drop 1)) 6 s)
  damageFilling
    { s1 with counters := { s1.counters with syncLosses := saturate16 (s1.counters.syncLosses + 1) } }

/-- R7, R8: the six bytes tested. A valid header becomes the new current packet's (R7); a failing one loses sync. -/
def testNextHeader (header : List Byte) (s : State) : State :=
  match testHeader header with
  | .ok (kind, n) => setFraming (.locked (some ⟨kind, n, []⟩)) 6 s
  | .error f => loseSync f header s

/-- SYNC_LOSS (R8). -/
def execSyncLoss (header : List Byte) (s : State) : Host.Outcome State Fault Refusal :=
  event (fun s => decide (header.length = 6) && awaitsHeader s) (testNextHeader header) s

/-- A packet of this kind with this body can be the one made whole: LOCKED, a permitted length (R4), and where the header and
first bytes are already in, the same kind, length and bytes (R7). -/
def canComplete (kind : PacketKind) (body : List Byte) (s : State) : Bool :=
  lengthPermitted kind body.length &&
    match s.inlet.framing with
    | .hunt _ => false
    | .locked none => true
    | .locked (some p) => decide (p.kind = kind ∧ p.length = body.length) && p.received.isPrefixOf body

/-- The lane's bytes that make the packet whole: its header too where that was not yet in (R7). -/
def bytesToWhole (body : List Byte) (s : State) : Nat :=
  match s.inlet.framing with
  | .locked (some p) => body.length - p.received.length
  | _ => 6 + body.length

/-- R7: the packet is whole and handed on; the receiver stays LOCKED and awaits the next header. -/
def receivePacket (body : List Byte) (s : State) : State := setFraming (.locked none) (bytesToWhole body s) s

/-- R10: the line number a PASSTHROUGH_DROP reports, 0 for OPEN and SHUT. -/
def droppedLine (p : Packet) : Nat := if p.kind = .lineKind then lineNumber p.body else 0

/-- The forward queue's room (section 1.4). -/
def forwardRoom : Nat := 4

/-- R10: a whole frame packet offered to the forward queue. -/
def offerForward (p : Packet) (s : State) : State :=
  if s.forward.length < forwardRoom then { s with forward := s.forward ++ [p] }
  else
    let s1 := raise .passthroughDrop
      [natWord (kindCode p.kind).toNat, natWord s.capture.seq.toNat, natWord (droppedLine p)] s
    { s1 with counters := { s1.counters with passthroughDrops := saturate16 (s1.counters.passthroughDrops + 1) } }

/-- OPEN (R9, R48): the capture unit takes it first, then the forward queue. The capture unit's notes are offered to the outlet
before the packet is, so on an idle, unheld lane the arbiter starts a note of theirs first (R13, log 8). -/
def execOpen (body : List Byte) (s : State) : Host.Outcome State Fault Refusal :=
  event (canComplete .openKind body)
    (fun s => offerForward ⟨.openKind, body⟩ (arbitrate (captureOpenPacket body (receivePacket body s)))) s

/-- LINE (R9, R50): offered to the forward queue and delivered to the capture unit (log 10). -/
def execLine (body : List Byte) (s : State) : Host.Outcome State Fault Refusal :=
  event (canComplete .lineKind body)
    (fun s => captureLinePacket body (offerForward ⟨.lineKind, body⟩ (receivePacket body s))) s

/-- SHUT (R9, R53): offered to the forward queue and delivered to the capture unit (log 10). -/
def execShut (body : List Byte) (s : State) : Host.Outcome State Fault Refusal :=
  event (canComplete .shutKind body)
    (fun s => captureShutPacket (offerForward ⟨.shutKind, body⟩ (receivePacket body s))) s

/-- The directive queue's room (section 9.1). -/
def directiveRoom : Nat := 8

/-- R166: a whole DIR packet queued, or dropped with DIRECTIVE_OVERRUN. -/
def queueDirective (body : List Byte) (s : State) : State :=
  if s.dirs.queue.length < directiveRoom then { s with dirs := { s.dirs with queue := s.dirs.queue ++ [body] } }
  else
    let n := saturate16 (s.counters.directivesDropped + 1)
    raise .directiveOverrun [natWord (dirCode body).toNat, natWord (dirTag body).toNat, natWord n]
      { s with counters := { s.counters with directivesDropped := n } }

/-- DIR (R9, R166). -/
def execDir (body : List Byte) (s : State) : Host.Outcome State Fault Refusal :=
  event (canComplete .dirKind body) (fun s => queueDirective body (receivePacket body s)) s

end Sys2Proof.Machine
end

