-- ==== Sys2Proof/Machine/SweepDirectives.lean ====
section
/-! DEFINITION. The sweep directives and GRANT: SWEEP_ARM, SWEEP_END, SWEEP_ABORT, SWEEP_RELEASE (chapter 2), GRANT (R155). -/

namespace Sys2Proof.Machine

/-! ### SWEEP_ARM (R23 to R26) -/

/-- R24: clamped to lo..hi, then rounded down to the multiple. -/
def bringIntoRange (lo hi multiple v : Nat) : Nat :=
  let c := max lo (min hi v)
  c / multiple * multiple

/-- K rounded up to a multiple of 64 (R23, R24). -/
def roundUp64 (k : Nat) : Nat := (k + 63) / 64 * 64

/-- The legal directions (R23 check 4). -/
def directionOf (n : Nat) : Option Direction := if n = 0 then some .rightward else if n = 1 then some .leftward else none

/-- R24: the thirteen parameters brought into range, from the words in parameter order and K. -/
def armedParams (d : Direction) (k : Nat) (ps : List Nat) : SweepParams :=
  let p := fun n => ps.getD n 0
  let dmax := bringIntoRange 0 12 1 (p 4)
  { direction := d
    margin := bringIntoRange 0 256 4 (p 1)
    wmax := bringIntoRange (max 1024 (roundUp64 k)) 16384 64 (p 2)
    tau := bringIntoRange 4 63 1 (p 3)
    dmax := dmax
    early := bringIntoRange 0 dmax 1 (p 5)
    rx := bringIntoRange 16 252 4 (p 6)
    ry := bringIntoRange 16 124 4 (p 7)
    minSupport := bringIntoRange 3 32 1 (p 8)
    aMin := bringIntoRange 0 1024 1 (p 9)
    tRev := bringIntoRange 0 256 1 (p 10)
    coastLimit := bringIntoRange 1 30 1 (p 11)
    credits := bringIntoRange 0 255 1 (p 12) }

/-- The thirteen parameters in parameter order (R26 words 1 to 13). -/
def paramList (p : SweepParams) : List Nat :=
  [directionCode p.direction, p.margin, p.wmax, p.tau, p.dmax, p.early, p.rx, p.ry, p.minSupport, p.aMin, p.tRev,
    p.coastLimit, p.credits]

/-- R26 word 16: the parameters changed by R24. -/
def changedCount (sent : List Nat) (p : SweepParams) : Nat :=
  ((sent.zip (paramList p)).drop 1).countP fun x => decide (x.1 ≠ x.2)

/-- R25: the next sweep id; after 255 the id becomes 1. -/
def nextSweepId (id : Nat) : Nat := if 255 ≤ id then 1 else id + 1

/-- R25, R99, R123, R149: the effects of an accepted SWEEP_ARM. -/
def armSweep (p : SweepParams) (s : State) : State :=
  changeSweep .armed .none
    { s with
      sweep := { s.sweep with
        id := nextSweepId s.sweep.id, params := p, hc := (workingMap s.tables).hFor + 2 * p.margin, coast := 0
        framesComposited := 0, tilesEmitted := 0 }
      placement := { s.placement with e := -1, deltaLast := ⟨0, 0⟩, origin := ⟨0, 0⟩, roll := 0 }
      reg := { s.reg with pred := ⟨0, 0⟩, votes := emptyVotes }
      ring := { s.ring with crop := none, credits := p.credits, starved := false } }

/-- R26: the reply's words. -/
def armWords (sent : List Nat) (s : State) : List Word :=
  [natWord s.sweep.id] ++ (paramList s.sweep.params).map natWord ++
    [natWord s.sweep.hc, natWord s.sweep.params.credits, natWord (changedCount sent s.sweep.params)]

/-- R23: the checks after the parameter count, and the acceptance. -/
def checkArm (body : List Byte) (ps : List Nat) (s : State) : State :=
  if s.sweep.state ≠ .idle then replyTo body .wrongState [] s
  else if tableValidity s.tables ≠ 7 then replyTo body .noTables [] s
  else
    match directionOf (ps.getD 0 0) with
    | none => replyTo body .range [] s
    | some d =>
      let s1 := armSweep (armedParams d (mapWidth (workingMap s.tables)) ps) s
      replyTo body .done (armWords ps s1) s1

/-- SWEEP_ARM taken. -/
def doSweepArm (body : List Byte) (s : State) : State := withParams 13 body (checkArm body) s

/-- SWEEP_ARM (R23). -/
def execSweepArm (s : State) : Host.Outcome State Fault Refusal := takeDirective (· == 0x10) doSweepArm s

/-! ### SWEEP_END, SWEEP_ABORT, SWEEP_RELEASE -/

/-- R33, R37, R39: the new state, the end cause and the sweep id. -/
def sweepReplyWords (s : State) : List Word :=
  [natWord (sweepStateCode s.sweep.state), natWord (endCauseCode s.sweep.cause), natWord s.sweep.id]

/-- The DONE reply of a sweep directive, with the state as its effects left it. -/
def sweepDone (body : List Byte) (s : State) : State := replyTo body .done (sweepReplyWords s) s

/-- R33: SWEEP_END according to the sweep state. -/
def endSweep (body : List Byte) (s : State) : State :=
  match s.sweep.state with
  | .armed => sweepDone body (changeSweep .ended .finished (discardCaptured s))
  | .tracking | .coasting => sweepDone body (enterDraining .finished (discardCaptured s))
  | .idle | .draining | .ended => replyTo body .wrongState [] s

/-- SWEEP_END taken. -/
def doSweepEnd (body : List Byte) (s : State) : State := withParams 0 body (fun _ s => endSweep body s) s

/-- SWEEP_END (R33). -/
def execSweepEnd (s : State) : Host.Outcome State Fault Refusal := takeDirective (· == 0x11) doSweepEnd s

/-- R37, R58: one slot under SWEEP_ABORT: a PLACED frame keeps its outcome, any other receives DISCARDED. -/
def abortSlot (s : State) (i : Fin 3) : State :=
  if slotState s i = some .placed then freeSlot i s else discardSlot s i

/-- R37: the effects of SWEEP_ABORT. -/
def abortSweep (s : State) : State :=
  changeSweep .ended .aborted (emptyRing (emptyCompositor (stopRegistration (s.capture.order.foldl abortSlot s))))

/-- R37: the states in which SWEEP_ABORT is taken. -/
def sweepRuns (st : SweepState) : Bool := decide (st ≠ .idle ∧ st ≠ .ended)

/-- SWEEP_ABORT taken. -/
def doSweepAbort (body : List Byte) (s : State) : State :=
  withParams 0 body
    (fun _ s => if sweepRuns s.sweep.state then sweepDone body (abortSweep s) else replyTo body .wrongState [] s) s

/-- SWEEP_ABORT (R37). -/
def execSweepAbort (s : State) : Host.Outcome State Fault Refusal := takeDirective (· == 0x12) doSweepAbort s

/-- R39, R99, R123, R149: the effects of SWEEP_RELEASE. -/
def releaseSweep (s : State) : State :=
  changeSweep .idle .none
    { s with
      reg := { s.reg with anchors := [], header := ⟨0, 0, 0⟩, pred := ⟨0, 0⟩, votes := emptyVotes }
      placement := { s.placement with e := -1, deltaLast := ⟨0, 0⟩ }
      ring := { s.ring with crop := none, credits := 0, starved := false }
      sweep := { s.sweep with coast := 0 } }

/-- SWEEP_RELEASE taken. -/
def doSweepRelease (body : List Byte) (s : State) : State :=
  withParams 0 body
    (fun _ s => if s.sweep.state = .ended then sweepDone body (releaseSweep s) else replyTo body .wrongState [] s) s

/-- SWEEP_RELEASE (R39). -/
def execSweepRelease (s : State) : Host.Outcome State Fault Refusal := takeDirective (· == 0x13) doSweepRelease s

/-! ### GRANT (R155) -/

/-- R155: n added to the credits, a sum above 255 left at 255; the reply gives the credits after. -/
def grantCredits (body : List Byte) (n : Nat) (s : State) : State :=
  let c := min 255 (s.ring.credits + n)
  replyTo body .done [natWord c] { s with ring := { s.ring with credits := c } }

/-- GRANT taken. -/
def doGrant (body : List Byte) (s : State) : State :=
  withParams 1 body (fun ps s => grantCredits body (ps.getD 0 0) s) s

/-- GRANT (R155). -/
def execGrant (s : State) : Host.Outcome State Fault Refusal := takeDirective (· == 0x18) doGrant s

end Sys2Proof.Machine
end

