-- ==== Sys2Proof/Machine/OutletCommands.lean ====
section
/-! DEFINITION. The outlet's and the emitter's events: OUTLET_HOLD, OUTLET_PACKET_COMPLETE, TILEEND_COMPLETE, TILE_RUN_TAKE
(R14, R15, R157, R161). -/

namespace Sys2Proof.Machine

/-- OUTLET_HOLD (R14): the line takes its level; deasserted, it is a packet boundary at which the arbiter chooses. The line
is the camera processor's, so it changes in reset and without power too. -/
def execOutletHold (asserted : Bool) (s : State) : Host.Outcome State Fault Refusal :=
  .next (arbitrate { s with holdLine := asserted })

/-- R15, R1: the lane becomes idle, n bytes further round its four data lanes. -/
def idleLane (n : Nat) (s : State) : State := { s with outlet := ⟨none, (s.outlet.lane + n) % 4⟩ }

/-- R161: the completion of a run's TILEEND. The run's tile, if still resident, is the EMITTING one. -/
def completeTileEnd (r : Run) (s : State) : State :=
  testDrain { s with
    ring := { s.ring with
      tiles := s.ring.tiles.filter fun t => !decide (t.state = .emitting ∧ t.index = r.tile)
      run := none }
    counters := { s.counters with tilesEmitted := saturate16 (s.counters.tilesEmitted + 1) } }

/-- R156, R164: the run after one of its packets has completed. -/
def advanceRun (hc : Nat) (r : Run) : Run :=
  match r.next with
  | .head => { r with next := if r.status = .abandoned then .tileEnd else .row 0 }
  | .row n =>
    { r with rowsSent := r.rowsSent + 1, next := if r.status = .abandoned ∨ hc ≤ n + 1 then .tileEnd else .row (n + 1) }
  | .tileEnd => r

/-- R15, R161: the emitter is told that its packet has completed. -/
def completeTilePacket (s : State) : State :=
  match s.ring.run with
  | none => s
  | some r =>
    if r.next = .tileEnd then completeTileEnd r s
    else { s with ring := { s.ring with run := some (advanceRun s.sweep.hc r) } }

/-- R15: the completion is reported to the claimant the packet came from. A packet whose source entry is gone removes nothing
and frees nothing. -/
def completePacket (p : Sending) (s : State) : State :=
  match p.claimant with
  | .forward => { s with forward := if p.orphan then s.forward else s.forward.tail }
  | .note => if p.orphan then s else fill { s with notes := { s.notes with queue := s.notes.queue.tail } }
  | .tile => completeTilePacket s

/-- A packet is being sent. -/
def sendingSome (s : State) : Bool := s.outlet.sending.isSome

/-- The bytes of the packet being sent (six of header, R4). -/
def sendingLength (p : Sending) : Nat := 6 + p.packet.body.length

/-- R15: the last byte of the packet on the outlet is sent. -/
def outletComplete (s : State) : State :=
  match s.outlet.sending with
  | none => s
  | some p => completePacket p (idleLane (sendingLength p) s)

/-- OUTLET_PACKET_COMPLETE (R15). -/
def execOutletPacketComplete (s : State) : Host.Outcome State Fault Refusal := event sendingSome outletComplete s

/-- The packet being sent is the run's TILEEND. -/
def sendingTileEnd (s : State) : Bool :=
  tileOnOutlet s &&
    match s.ring.run with
    | none => false
    | some r => decide (r.next = .tileEnd)

/-- TILEEND_COMPLETE (R161): OUTLET_PACKET_COMPLETE of a TILEEND by its other name (log 20). -/
def execTileendComplete (s : State) : Host.Outcome State Fault Refusal := event sendingTileEnd outletComplete s

/-- R157: the emitter is IDLE, the credits are above 0 and the sealed queue is not empty. -/
def canTakeRun (s : State) : Bool :=
  s.ring.run.isNone && decide (0 < s.ring.credits) && !s.ring.sealedQueue.isEmpty

/-- The run recorded at the take of tile t (R153, R157, R158). -/
def newRun (t : Nat) (s : State) : Run :=
  let tile := (s.ring.tiles.find? fun u => decide (u.index = t)).getD (freshTile s.sweep.hc t)
  let ends := tileEnds s.sweep.hc tile
  ⟨s.sweep.id, t, columnCount s.placement.e t, ends.1, ends.2, .complete, 0, .head⟩

/-- R157, R165: the take of the head tile's run. The starved flag is cleared first; if the take leaves no credit and a tile
waiting, a new episode begins. Its CREDIT_STARVED is offered to an idle outlet before the TILEHEAD (log 8). -/
def takeRun (s : State) : State :=
  match s.ring.sealedQueue with
  | [] => s
  | t :: rest =>
    let s1 := { s with ring := { s.ring with
      tiles := s.ring.tiles.map fun u => if u.index = t then { u with state := .emitting } else u
      sealedQueue := rest
      credits := s.ring.credits - 1
      starved := false
      run := some (newRun t s) } }
    if s1.ring.credits = 0 ∧ rest ≠ [] then beginStarvation s1 else s1

/-- R157: a SWEEP_ABORT has arrived together with the event at hand: it waits in the queue directly behind it, and as the part
stands it will be taken and carried out (log 27). -/
def abortArrives (s : State) : Bool :=
  decide (s.pending.head? = some .sweepAbort) && canTake (· == 0x12) s && decide (dirParams (headBody s) = some []) &&
    sweepRuns s.sweep.state

/-- The arbiter's choice among the claimants ahead of the tile emitter (R13): the emitter's packet stays an offer. -/
def arbitrateAhead (s : State) : State := if s.forward = [] ∧ s.notes.queue = [] then s else arbitrate s

/-- TILE_RUN_TAKE (R157). On an idle, unheld lane its TILEHEAD is started at once (R13); where a SWEEP_ABORT has arrived together
with the take, that abort finds a run with no packet started. -/
def execTileRunTake (s : State) : Host.Outcome State Fault Refusal :=
  if abortArrives s = true ∧ s.power = .running ∧ canTakeRun s = true then .next (arbitrateAhead (takeRun s))
  else event canTakeRun takeRun s

end Sys2Proof.Machine
end

