-- ==== Sys2Proof/Machine/TableDirectives.lean ====
section
/-! DEFINITION. TABLE_PAGE (R181 to R185). -/

namespace Sys2Proof.Machine

/-- The page assembly replaced. -/
def setAssembly (a : Option Assembly) (s : State) : State := { s with tables := { s.tables with assembly := a } }

/-- A page's fields, once its shape has been checked (R181, R182). -/
structure Page where
  table   : TableId
  first   : Bool
  more    : Bool
  toggle  : Bool
  count   : Nat
  header  : List Nat
  entries : List (List Nat)
  deriving DecidableEq, Repr

/-- R181: the parameter words read as a page of a table. -/
def readPage (t : TableId) (ps : List Nat) : Page :=
  let flags := ps.getD 1 0
  let first := flags.testBit 0
  let header := if first then (ps.drop 3).take (headerWords t) else []
  ⟨t, first, flags.testBit 1, flags.testBit 2, ps.getD 2 0, header,
    pageEntries (entryWords t) (ps.getD 2 0) (ps.drop (3 + header.length))⟩

/-- R182 check 4: the parameter count a page of a table requires. -/
def pageLength (t : TableId) (first : Bool) (count : Nat) : Nat :=
  3 + (if first then headerWords t else 0) + count * entryWords t

/-- R185: a last page's assembly closed, with one of its three results. -/
def closeAssembly (body : List Byte) (a : Assembly) (s : State) : State :=
  if a.entries.length ≠ headerCount a.header then replyTo body .format [] (setAssembly none s)
  else
    match assemblyFault a with
    | some i => replyTo body .invalidTable [natWord (tableIdCode a.table), intWord i] (setAssembly none s)
    | none =>
      let t := installAssembly a s.tables
      replyTo body .done [natWord (tableIdCode a.table), natWord (headerCount a.header), natWord (tableValidity t)]
        { s with tables := t }

/-- R184 steps 4 and 5: the page's entries appended to the assembly, and the last page closes it. -/
def appendPage (body : List Byte) (p : Page) (a : Assembly) (s : State) : State :=
  if headerCount a.header < a.entries.length + p.count then replyTo body .format [] (setAssembly none s)
  else
    let b : Assembly := { a with entries := a.entries ++ p.entries, toggle := p.toggle }
    if p.more then
      replyTo body .done [natWord b.entries.length, natWord (headerCount b.header)] (setAssembly (some b) s)
    else closeAssembly body b s

/-- R183: a FIRST page. -/
def firstPage (body : List Byte) (p : Page) (s : State) : State :=
  if greatestCount p.table < headerCount p.header then
    replyTo body .invalidTable [natWord (tableIdCode p.table), intWord (-1)] (setAssembly none s)
  else appendPage body p ⟨p.table, p.header, [], p.toggle⟩ s

/-- R184: a page without FIRST. -/
def laterPage (body : List Byte) (p : Page) (s : State) : State :=
  match s.tables.assembly with
  | none => replyTo body .sequence [] s
  | some a =>
    if a.table ≠ p.table then replyTo body .sequence [] (setAssembly none s)
    else if p.toggle = a.toggle then
      replyTo body .repeated [natWord a.entries.length, natWord (headerCount a.header)] s
    else appendPage body p a s

/-- R182 check 5: the store may be reading the working set. -/
def readsWorkingSet (s : State) : Bool := decide (s.store.busy = some .write ∨ s.store.busy = some .verify)

/-- R168, R179: the states in which tables may be loaded and recalled. -/
def tablesMayChange (st : SweepState) : Bool := decide (st = .idle ∨ st = .ended)

/-- R182: the five checks, in order, on a body with whole parameter words. -/
def checkPage (body : List Byte) (ps : List Nat) (s : State) : State :=
  if ps.length < 3 then replyTo body .format [] s
  else if !tablesMayChange s.sweep.state then replyTo body .wrongState [] s
  else
    match tableIdOf (ps.getD 0 0) with
    | none => replyTo body .range [] s
    | some t =>
      if 7 < ps.getD 1 0 then replyTo body .range [] s
      else
        let p := readPage t ps
        if pageLimit t < p.count ∨ ps.length ≠ pageLength t p.first p.count then replyTo body .format [] s
        else if !p.more && readsWorkingSet s then replyTo body .busy [] s
        else if p.first then firstPage body p s else laterPage body p s

/-- TABLE_PAGE taken. A body with an odd number of parameter bytes is answered FORMAT (R167). -/
def doTablePage (body : List Byte) (s : State) : State :=
  match dirParams body with
  | none => replyTo body .format [] s
  | some ps => checkPage body ps s

/-- TABLE_PAGE (R182). -/
def execTablePage (s : State) : Host.Outcome State Fault Refusal := takeDirective (· == 0x20) doTablePage s

end Sys2Proof.Machine
end

