-- ==== Sys2Proof/Machine/UnitDirectives.lean ====
section
/-! DEFINITION. The directives of chapter 9: STATUS, EVENT_MASK, COUNTERS, RESET_ENGINE, and directives of unlisted codes. -/

namespace Sys2Proof.Machine

/-! ### STATUS (R174) -/

/-- R174 word 19. -/
def modeCode : Mode → Nat
  | .normal => 0
  | .service => 1

/-- R174 word 20: HUNT 0, LOCKED 1. -/
def framingCode : Framing → Nat
  | .hunt _ => 0
  | .locked _ => 1

/-- R174: the twenty-eight words of STATUS. -/
def statusWords (s : State) : List Word :=
  let m := s.tables.columnMap.getD ⟨0, 0, 0, 0, []⟩
  [natWord (sweepStateCode s.sweep.state), natWord (endCauseCode s.sweep.cause), natWord s.sweep.id,
    natWord s.sweep.coast, natWord s.ring.credits, natWord s.ring.tiles.length, natWord s.ring.sealedQueue.length,
    natWord (s.ring.tiles.countP fun t => decide (t.state = .emitting)),
    natWord (slotCode s.capture.slots.s0), natWord (slotCode s.capture.slots.s1), natWord (slotCode s.capture.slots.s2),
    natWord s.reg.anchors.length, intWord s.placement.e, natWord (tableValidity s.tables),
    natWord m.wFor, natWord m.hFor, natWord m.k, natWord ((s.tables.feather.map (·.count)).getD 0),
    natWord s.store.busy.isSome.toNat, natWord (modeCode s.mode), natWord (framingCode s.inlet.framing),
    natWord s.sweep.hc]
  ++ (if s.sweep.state = .ended then summaryWords s else List.replicate 6 0)

/-- STATUS taken, with the body of the directive. -/
def doStatus (body : List Byte) (s : State) : State :=
  withParams 0 body (fun _ s => replyTo body .done (statusWords s) s) s

/-- STATUS (R174). -/
def execStatus (s : State) : Host.Outcome State Fault Refusal := takeDirective (· == 0x01) doStatus s

/-! ### EVENT_MASK (R173) -/

/-- R173: the masks set from an enable set; the reply names the set in effect and the kinds pending. -/
def setMasks (body : List Byte) (enable : Nat) (s : State) : State :=
  if 63 < enable then replyTo body .range [] s
  else
    replyTo body .done [natWord enable, natWord (pendingSet s.notes.pending)]
      { s with notes := { s.notes with unmasked := masksOf enable } }

/-- EVENT_MASK taken. -/
def doEventMask (body : List Byte) (s : State) : State :=
  withParams 1 body (fun ps s => setMasks body (ps.getD 0 0) s) s

/-- EVENT_MASK (R173). -/
def execEventMask (s : State) : Host.Outcome State Fault Refusal := takeDirective (· == 0x02) doEventMask s

/-! ### COUNTERS (R175) -/

/-- R175: the eight counters in the order of section 9.6. -/
def counterWords (c : Counters) : List Word :=
  [natWord c.opensSeen, natWord c.framesComposited, natWord c.framesNotComposited, natWord c.tilesEmitted,
    natWord c.syncLosses, natWord c.directivesDropped, natWord c.passthroughDrops, natWord c.linesRepaired]

/-- R175: READ (0) or ZERO (1). -/
def readCounters (body : List Byte) (option : Nat) (s : State) : State :=
  if 1 < option then replyTo body .range [] s
  else
    replyTo body .done (counterWords s.counters)
      { s with counters := if option = 1 then Counters.zero else s.counters }

/-- COUNTERS taken. -/
def doCounters (body : List Byte) (s : State) : State :=
  withParams 1 body (fun ps s => readCounters body (ps.getD 0 0) s) s

/-- COUNTERS (R175). -/
def execCounters (s : State) : Host.Outcome State Fault Refusal := takeDirective (· == 0x03) doCounters s

/-! ### RESET_ENGINE (R176, R177) -/

/-- R176: what each owning block takes for RESET_ENGINE. The sweep id, the capture unit's counters, the working tables, the
lanes, the counters and MODE are kept; credits are 0 after the run is settled (R164). -/
def resetBlocks (s : State) : State :=
  let s1 := emptyRing s
  { s1 with
    capture := { s1.capture with slots := .allFree, order := [] }
    reg := .zero
    placement := .zero
    comp := ⟨false, []⟩
    ring := { s1.ring with crop := none, credits := 0 }
    sweep := { Sweep.zero with id := s1.sweep.id }
    tables := { s1.tables with assembly := none } }

/-- R195: the operation named by the marker is cut: its slot becomes TORN, its words free, the marker clear. -/
def cutOperation (s : State) : State :=
  match s.store.marker with
  | none => s
  | some m =>
    { s with
      store := { s.store with
        slots := s.store.slots.set m.slot
          { s.store.slots.get m.slot with state := .torn, image := tornImage s.freeIndex }
        marker := none }
      freeIndex := s.freeIndex + 1 }

/-- R177 word 0: the slot whose operation was aborted, 4 when none was. -/
def abortedSlotWord (s : State) : Word :=
  match s.store.marker with
  | none => natWord 4
  | some m => natWord m.slot.val

/-- The directive code a reply note carries. -/
def noteCode : Note → Byte
  | .reply _ code _ _ => code
  | .event _ _ _ => 0

/-- R177 word 1: the directive code of a profile reply discarded, or 0. -/
def discardedReplyWord (s : State) : Word :=
  match s.notes.replies.find? fun r => r.source = .profileStore with
  | none => 0
  | some r => natWord (noteCode r.note).toNat

/-- R177: the four words of the reply. -/
def resetEngineWords (s : State) : List Word :=
  [abortedSlotWord s, discardedReplyWord s, natWord (pendingSet s.notes.pending), natWord s.notes.queue.length]

/-- R15, R170: a note on the outlet loses its source entry when the note queue is emptied. -/
def orphanNote (p : Sending) : Sending := if p.claimant = .note then { p with orphan := true } else p

/-- R177 steps 1 and 2. -/
def resetUnits (s : State) : State :=
  let s1 := cutOperation s
  { s1 with
    store := { s1.store with busy := none }
    notes := .zero
    dirs := { s1.dirs with replyWaiting := false }
    outlet := { s1.outlet with sending := s1.outlet.sending.map orphanNote } }

/-- RESET_ENGINE taken: R176, then R177 in its order, and the reply placed in the empty queue. -/
def doResetEngine (body : List Byte) (s : State) : State :=
  withParams 0 body (fun _ s => replyTo body .done (resetEngineWords s) (resetUnits (resetBlocks s))) s

/-- RESET_ENGINE (R176, R177). -/
def execResetEngine (s : State) : Host.Outcome State Fault Refusal := takeDirective (· == 0x04) doResetEngine s

/-! ### Unlisted codes (R167) -/

/-- A directive whose code is not in the code table is answered UNKNOWN. -/
def doUnknown (body : List Byte) (s : State) : State := replyTo body .unknown [] s

/-- UNKNOWN_DIRECTIVE (R167 check 1). -/
def execUnknownDirective (s : State) : Host.Outcome State Fault Refusal :=
  takeDirective (fun c => !knownDirective c) doUnknown s

end Sys2Proof.Machine
end

