-- ==== Sys2Proof/Machine/ProfileCommands.lean ====
section
/-! DEFINITION. The profile store: the directives 0x30 to 0x38, and the completions of its operations (R186 to R194). -/

namespace Sys2Proof.Machine

/-! ### Checks (R187) -/

/-- R187: parameter count, MODE where the directive needs SERVICE, store busy, protect flag where it matters; then the
directive's own conditions. R193 has a protected store refuse ERASE, WRITE and DEFAULT with PROTECTED in both modes; in NORMAL
the order of R187 is followed, and the answer is NOT_PERMITTED (log 26). -/
def profileChecks (n : Nat) (needsService needsUnprotected : Bool) (body : List Byte) (act : List Nat → State → State)
    (s : State) : State :=
  withParams n body
    (fun ps s =>
      if needsService && decide (s.mode = .normal) then replyTo body .notPermitted [] s
      else if s.store.busy.isSome then replyTo body .busy [] s
      else if needsUnprotected && s.store.isProtected then replyTo body .isProtected [] s
      else act ps s) s

/-- R187: a slot parameter outside 0..3 is refused with RANGE, as the first of the directive's own conditions. -/
def withSlot (body : List Byte) (ps : List Nat) (act : Fin 4 → State → State) (s : State) : State :=
  if h : ps.getD 0 0 < 4 then act ⟨ps.getD 0 0, h⟩ s else replyTo body .range [] s

/-- R168, R188: an operation begins: the store is busy with it, the marker is set, the tag is kept for the reply. -/
def beginOperation (body : List Byte) (slot : Fin 4) (op : ProfileOp) (s : State) : State :=
  { s with store := { s.store with marker := some ⟨slot, op⟩, busy := some op, tag := dirTag body } }

/-- One profile slot replaced. -/
def setProfileSlot (i : Fin 4) (p : ProfileSlot) (s : State) : State :=
  { s with store := { s.store with slots := s.store.slots.set i p } }

/-- The wear limit (R186). -/
def wearLimit : Nat := 250

/-- The wear count of a slot after an erase starts: a count below 250 is incremented (R188, R192). -/
def wornOnce (p : ProfileSlot) : ProfileSlot := if p.wear < wearLimit then { p with wear := p.wear + 1 } else p

/-- A slot whose erase has ended (R188): BLANK, every word erased. -/
def erasedSlot (p : ProfileSlot) : ProfileSlot := { p with state := .blank, image := blankImage }

/-! ### The directives -/

/-- R188. -/
def eraseSlot (body : List Byte) (i : Fin 4) (s : State) : State :=
  let p := s.store.slots.get i
  if wearLimit ≤ p.wear then replyTo body .worn [natWord i.val, natWord p.wear] s
  else beginOperation body i .erase (setProfileSlot i (wornOnce p) s)

/-- PROFILE_ERASE taken. -/
def doProfileErase (body : List Byte) (s : State) : State :=
  profileChecks 1 true true body (fun ps s => withSlot body ps (eraseSlot body) s) s

/-- PROFILE_ERASE (R188). -/
def execProfileErase (s : State) : Host.Outcome State Fault Refusal := takeDirective (· == 0x31) doProfileErase s

/-- R189. -/
def writeSlot (body : List Byte) (i : Fin 4) (s : State) : State :=
  if (s.store.slots.get i).state ≠ .blank then replyTo body .notBlank [] s
  else if tableValidity s.tables ≠ 7 then replyTo body .noTables [] s
  else beginOperation body i .write s

/-- PROFILE_WRITE taken. -/
def doProfileWrite (body : List Byte) (s : State) : State :=
  profileChecks 1 true true body (fun ps s => withSlot body ps (writeSlot body) s) s

/-- PROFILE_WRITE (R189). -/
def execProfileWrite (s : State) : Host.Outcome State Fault Refusal := takeDirective (· == 0x32) doProfileWrite s

/-- R190. -/
def verifySlot (body : List Byte) (i : Fin 4) (s : State) : State :=
  if (s.store.slots.get i).state ≠ .written then replyTo body .notWritten [] s
  else beginOperation body i .verify s

/-- PROFILE_VERIFY taken. -/
def doProfileVerify (body : List Byte) (s : State) : State :=
  profileChecks 1 false false body (fun ps s => withSlot body ps (verifySlot body) s) s

/-- PROFILE_VERIFY (R190). -/
def execProfileVerify (s : State) : Host.Outcome State Fault Refusal := takeDirective (· == 0x33) doProfileVerify s

/-- PROFILE_BLANK_CHECK taken (R191): any slot is accepted. -/
def doProfileBlankCheck (body : List Byte) (s : State) : State :=
  profileChecks 1 false false body (fun ps s => withSlot body ps (fun i s => beginOperation body i .blankCheck s) s) s

/-- PROFILE_BLANK_CHECK (R191). -/
def execProfileBlankCheck (s : State) : Host.Outcome State Fault Refusal :=
  takeDirective (· == 0x34) doProfileBlankCheck s

/-- PROFILE_PROTECT taken (R193). -/
def doProfileProtect (body : List Byte) (s : State) : State :=
  profileChecks 0 true true body
    (fun _ s => replyTo body .done [] { s with store := { s.store with isProtected := true } }) s

/-- PROFILE_PROTECT (R193). -/
def execProfileProtect (s : State) : Host.Outcome State Fault Refusal := takeDirective (· == 0x35) doProfileProtect s

/-- R192: a stage of ERASE_ALL starts on a slot: the marker, and the wear count if below 250. -/
def startStage (i : Fin 4) (s : State) : State :=
  let s1 := setProfileSlot i (wornOnce (s.store.slots.get i)) s
  { s1 with store := { s1.store with marker := some ⟨i, .eraseAll⟩ } }

/-- R192: the take of PROFILE_ERASE_ALL: busy, default NONE, the stage of slot 0. -/
def beginEraseAll (body : List Byte) (s : State) : State :=
  startStage 0
    { s with store := { s.store with defaultSlot := none, busy := some .eraseAll, tag := dirTag body } }

/-- PROFILE_ERASE_ALL taken: permitted while protected (R187). -/
def doProfileEraseAll (body : List Byte) (s : State) : State :=
  profileChecks 0 true false body (fun _ s => beginEraseAll body s) s

/-- PROFILE_ERASE_ALL (R192). -/
def execProfileEraseAll (s : State) : Host.Outcome State Fault Refusal := takeDirective (· == 0x36) doProfileEraseAll s

/-- R193: the default slot 0..3, or NONE for 4; any other value is refused with RANGE. -/
def setDefault (body : List Byte) (n : Nat) (s : State) : State :=
  if h : n < 4 then replyTo body .done [natWord n] { s with store := { s.store with defaultSlot := some ⟨n, h⟩ } }
  else if n = 4 then replyTo body .done [natWord 4] { s with store := { s.store with defaultSlot := none } }
  else replyTo body .range [] s

/-- PROFILE_DEFAULT taken. -/
def doProfileDefault (body : List Byte) (s : State) : State :=
  profileChecks 1 true true body (fun ps s => setDefault body (ps.getD 0 0) s) s

/-- PROFILE_DEFAULT (R193). -/
def execProfileDefault (s : State) : Host.Outcome State Fault Refusal := takeDirective (· == 0x37) doProfileDefault s

/-- R193: the ten words of PROFILE_INFO. -/
def infoWords (st : Store) : List Word :=
  st.slots.all.map (fun p => natWord (profileStateCode p.state)) ++ st.slots.all.map (fun p => natWord p.wear) ++
    [natWord st.isProtected.toNat, natWord (defaultCode st.defaultSlot)]

/-- PROFILE_INFO taken. -/
def doProfileInfo (body : List Byte) (s : State) : State :=
  profileChecks 0 false false body (fun _ s => replyTo body .done (infoWords s.store) s) s

/-- PROFILE_INFO (R193). -/
def execProfileInfo (s : State) : Host.Outcome State Fault Refusal := takeDirective (· == 0x38) doProfileInfo s

/-- R194: the recall of a slot. -/
def recallSlot (body : List Byte) (i : Fin 4) (s : State) : State :=
  if !tablesMayChange s.sweep.state then replyTo body .wrongState [] s
  else if (s.store.slots.get i).state ≠ .written then replyTo body .notWritten [] s
  else
    match recallImage (s.store.slots.get i).image with
    | .error (t, n) => replyTo body .invalidTable [natWord (tableIdCode t), intWord n] s
    | .ok (m, f, g) =>
      replyTo body .done [natWord i.val, natWord 7]
        { s with tables := { s.tables with columnMap := some m, feather := some f, gain := some g } }

/-- PROFILE_RECALL taken. -/
def doProfileRecall (body : List Byte) (s : State) : State :=
  profileChecks 1 false false body (fun ps s => withSlot body ps (recallSlot body) s) s

/-- PROFILE_RECALL (R194). -/
def execProfileRecall (s : State) : Host.Outcome State Fault Refusal := takeDirective (· == 0x30) doProfileRecall s

/-! ### Completions -/

/-- The marker names this operation in progress. -/
def inProgress (op : ProfileOp) (s : State) : Bool :=
  match s.store.marker with
  | none => false
  | some m => decide (m.op = op)

/-- The marker's slot; slot 0 where the marker is clear, which no completion sees. -/
def markedSlot (s : State) : Fin 4 := (s.store.marker.map (·.slot)).getD 0

/-- The marker cleared (R188). -/
def clearMarker (s : State) : State := { s with store := { s.store with marker := none } }

/-- R188: the erase completes. -/
def completeErase (s : State) : State :=
  let i := markedSlot s
  let p := erasedSlot (s.store.slots.get i)
  storeReply 0x31 .done [natWord i.val, natWord p.wear] (clearMarker (setProfileSlot i p s))

/-- PROFILE_ERASE_COMPLETE (R188). -/
def execProfileEraseComplete (s : State) : Host.Outcome State Fault Refusal := event (inProgress .erase) completeErase s

/-- The working set's words (R189); the tables are VALID from the take to the completion. -/
def workingSetWords (t : Tables) : List Half :=
  setWords (t.columnMap.getD ⟨0, 0, 0, 0, []⟩) (t.feather.getD ⟨0, []⟩) (t.gain.getD ⟨0, []⟩)

/-- R189: the write completes: the slot is WRITTEN with the working set. -/
def completeWrite (s : State) : State :=
  let i := markedSlot s
  let p := { s.store.slots.get i with state := .written, image := imageOfWords (workingSetWords s.tables) }
  storeReply 0x32 .done [natWord i.val] (clearMarker (setProfileSlot i p s))

/-- PROFILE_WRITE_COMPLETE (R189). -/
def execProfileWriteComplete (s : State) : Host.Outcome State Fault Refusal := event (inProgress .write) completeWrite s

/-- R190: the verify completes. -/
def completeVerify (s : State) : State :=
  let i := markedSlot s
  match imageDifference (s.store.slots.get i).image s.tables with
  | none => storeReply 0x33 .done [natWord i.val] (clearMarker s)
  | some (t, n) => storeReply 0x33 .mismatch [natWord i.val, natWord (tableIdCode t), intWord n] (clearMarker s)

/-- PROFILE_VERIFY_COMPLETE (R190). -/
def execProfileVerifyComplete (s : State) : Host.Outcome State Fault Refusal :=
  event (inProgress .verify) completeVerify s

/-- R191: the blank check completes. -/
def completeBlankCheck (s : State) : State :=
  let i := markedSlot s
  match notBlankOffset (s.store.slots.get i) with
  | none => storeReply 0x34 .done [natWord i.val] (clearMarker s)
  | some a => storeReply 0x34 .notBlank [natWord i.val, natWord a] (clearMarker s)

/-- PROFILE_BLANK_CHECK_COMPLETE (R191). -/
def execProfileBlankCheckComplete (s : State) : Host.Outcome State Fault Refusal :=
  event (inProgress .blankCheck) completeBlankCheck s

/-- R192: the end of slot 3's stage completes the operation. -/
def completeEraseAll (s : State) : State :=
  storeReply 0x36 .done (s.store.slots.all.map fun p => natWord p.wear)
    { s with store := { s.store with isProtected := false, marker := none } }

/-- R192: a stage ends: the slot becomes BLANK and the next stage starts, or the operation completes. -/
def endStage (s : State) : State :=
  let i := markedSlot s
  let s1 := setProfileSlot i (erasedSlot (s.store.slots.get i)) s
  match i with
  | 0 => startStage 1 s1
  | 1 => startStage 2 s1
  | 2 => startStage 3 s1
  | 3 => completeEraseAll s1

/-- ERASE_ALL_STAGE_END (R192). -/
def execEraseAllStageEnd (s : State) : Host.Outcome State Fault Refusal := event (inProgress .eraseAll) endStage s

end Sys2Proof.Machine
end

