-- ==== Sys2Proof/Machine/ResetCommands.lean ====
section
/-! DEFINITION. PIN_RESET, RESET_RELEASE and POWER_LOSS (R2, R3, R195, R196). -/

namespace Sys2Proof.Machine

/-- PIN_RESET (R2): the outlet's packet is left incomplete, the inlet's bytes that are in no whole packet are discarded and
the receiver is in HUNT. The other blocks take their power-on state at the release; until then nothing reads them. A part
without power stays so. -/
def execPinReset (s : State) : Host.Outcome State Fault Refusal :=
  .next
    { s with
      power := if s.power = .off then .off else .inReset
      inlet := { s.inlet with framing := .hunt [] }
      outlet := { s.outlet with sending := none } }

/-- R196: the working tables recalled from a WRITTEN, validating default slot, or all EMPTY; the assembly closed. -/
def powerOnTables (st : Store) : Tables :=
  match st.defaultSlot with
  | none => .empty
  | some i =>
    if (st.slots.get i).state = .written then
      match recallImage (st.slots.get i).image with
      | .ok (m, f, g) => ⟨some m, some f, some g, none⟩
      | .error _ => .empty
    else .empty

/-- R3: the level of the MODE line sampled. -/
def sampledMode (high : Bool) : Mode := if high then .service else .normal

/-- R2, R3, R195, R196: every block takes its power-on state; a slot named by the marker becomes TORN before power-on recall. -/
def powerOn (modeHigh : Bool) (s : State) : State :=
  let s1 := cutOperation s
  let store := { s1.store with busy := none, tag := 0 }
  .cold .running (sampledMode modeHigh) s.holdLine (powerOnTables store) store s1.freeIndex s.pending

/-- RESET_RELEASE (R2): deassertion of RESET, or power-on. -/
def execResetRelease (modeHigh : Bool) (s : State) : Host.Outcome State Fault Refusal := .next (powerOn modeHigh s)

/-- POWER_LOSS (R195): the profile store's non-volatile state and the marker survive; the volatile state is lost (log 7). -/
def execPowerLoss (s : State) : Host.Outcome State Fault Refusal :=
  .next (.cold .off s.mode s.holdLine .empty { s.store with busy := none, tag := 0 } s.freeIndex s.pending)

end Sys2Proof.Machine
end

