-- ==== Sys2Proof/Machine/SweepEvents.lean ====
section
/-! DEFINITION. The events of registration, placement and the compositor: REGISTRATION_TAKE, REGISTRATION_COMPLETE, PLACEMENT,
COMPOSITE_TAKE, COMPOSITE_COMPLETE (chapters 2, 6, 7). -/

namespace Sys2Proof.Machine

/-! ### Placing a frame: what the seed and a COMPOSITED frame share (R27, R132) -/

/-- R135: the tiles from index `lo` to index `hi` are opened, in increasing index. -/
def openTiles (lo hi : Int) (s : State) : State :=
  let new := (List.range (hi + 1 - lo).toNat).map fun n => freshTile s.sweep.hc (lo.toNat + n)
  { s with ring := { s.ring with tiles := s.ring.tiles ++ new } }

/-- R136: the writer count of every tile from `lo` to `hi` changed. -/
def changeWriters (f : Nat → Nat) (lo hi : Nat) (s : State) : State :=
  { s with ring := { s.ring with
    tiles := s.ring.tiles.map fun t => if lo ≤ t.index ∧ t.index ≤ hi then { t with writers := f t.writers } else t } }

/-- R132 step 5, R98: the frame becomes the anchor frame. -/
def becomeAnchor (f : CapturedFrame) (o delta : Point) (s : State) : State :=
  { s with
    reg := { s.reg with
      anchors := buildAnchors (workingMap s.tables) o f.record.roll (keypointsOf f.detection)
      header := ⟨f.record.hintX, f.record.hintY, f.record.broken⟩ }
    placement := { s.placement with origin := o, roll := f.record.roll, deltaLast := delta } }

/-- R132 steps 1 to 6, with E going to eNew: tiles opened, writers raised, the entry queued, E, the anchors, the slot PLACED. -/
def placeFrame (i : Fin 3) (f : CapturedFrame) (o delta : Point) (band : Nat) (eNew gain : Int) (s : State) : State :=
  let eOld := s.placement.e
  let first := (firstWritten eOld band / 64).toNat
  let last := (eNew / 64).toNat
  let s1 := changeWriters (· + 1) first last (openTiles (eOld / 64 + 1) (eNew / 64) s)
  let s2 := { s1 with
    comp := { s1.comp with queue := s1.comp.queue ++ [⟨i, o, eOld, band, eNew, gain, first, last⟩] }
    placement := { s1.placement with e := eNew } }
  setSlot i { f with state := .placed } (becomeAnchor f o delta s2)

/-! ### REGISTRATION_TAKE (R27, R100, R101) -/

/-- R27, R134: the seed is placed at (0, 4M). -/
def takeSeed (i : Fin 3) (f : CapturedFrame) (s : State) : State :=
  let o : Point := ⟨0, 4 * s.sweep.params.margin⟩
  let eNew := min ((mapWidth (workingMap s.tables) : Int) - 1) (s.sweep.params.wmax - 1)
  let s1 := placeFrame i f o ⟨0, 0⟩ 0 eNew 0 { s with placement := { s.placement with e0 := f.record.exposure } }
  let r : OutcomeRecord :=
    { seq := f.record.seq, outcome := .seed, origin := o, keypoints := (detectionCounts f.detection).1,
      overflow := (detectionCounts f.detection).2, repaired := f.record.repaired }
  takeWidthLimit (decideOutcome r s1)

/-- R101: the frame is taken to be registered. -/
def takeToRegister (i : Fin 3) (f : CapturedFrame) (s : State) : State :=
  setSlot i { f with state := .registering }
    { s with reg :=
      { s.reg with
        engine := .matching, work := some i, anchors := clearClaims s.reg.anchors, votes := emptyVotes
        pred := predict f.record s.reg.header s.placement.deltaLast, handover := none } }

/-- R100: the engine is WAITING, a slot is READY, and the sweep state says what is done with it. -/
def canTakeFrame (s : State) : Bool :=
  decide (s.reg.engine = .waiting) && (oldestIn .ready s).isSome && capturing s.sweep.state

/-- R100: the oldest READY frame taken, as the seed in ARMED, to be registered in TRACKING and COASTING. -/
def takeFrame (s : State) : State :=
  match oldestIn .ready s with
  | none => s
  | some i =>
    match s.capture.slots.get i with
    | none => s
    | some f => if s.sweep.state = .armed then takeSeed i f s else takeToRegister i f s

/-- REGISTRATION_TAKE (R100). -/
def execRegistrationTake (s : State) : Host.Outcome State Fault Refusal := event canTakeFrame takeFrame s

/-! ### REGISTRATION_COMPLETE (R103) -/

/-- The frame in work. -/
def frameInWork (s : State) : Option (Fin 3 × CapturedFrame) :=
  match s.reg.work with
  | none => none
  | some i => (s.capture.slots.get i).map fun f => (i, f)

/-- What the registration of the frame in work reads (R101). -/
def matchInputs (f : CapturedFrame) (s : State) : MatchInputs :=
  ⟨workingMap s.tables, s.sweep.params, s.placement.origin, s.reg.pred, f.record.roll⟩

/-- The registration of the frame in work, carried out to the end (R109 to R118). -/
def registrationOf (f : CapturedFrame) (s : State) : MatchResult :=
  register (matchInputs f s) s.reg.anchors (keypointsOf f.detection)

/-- The overflow flags of a context. -/
def overflowOf : Detection → List Bool
  | .working _ _ _ ov => ov
  | .finished _ ov => ov

/-- R121: the fields an outcome record takes from registration. -/
def registrationRecord (o : FrameOutcome) (f : CapturedFrame) (pred : Point) (claims support : Nat) : OutcomeRecord :=
  { seq := f.record.seq, outcome := o, pred := pred, claims := claims, support := support,
    keypoints := (detectionCounts f.detection).1, overflow := (detectionCounts f.detection).2,
    repaired := f.record.repaired }

/-- R103: an outcome decided at the completion: the slot is freed, the claims are made absent and the engine is WAITING. What the
prediction and the vote grid hold from here to the next take no rule says: they stay as the registration left them (log 25). -/
def endRegistration (i : Fin 3) (votes : List Nat) (r : OutcomeRecord) (s : State) : State :=
  testDrain (decideOutcome r (freeSlot i
    { s with reg :=
      { s.reg with
        engine := .waiting, work := none, anchors := clearClaims s.reg.anchors, votes := votes, handover := none } }))

/-- R103, R120: the frame is handed to placement; claims and matches stand (R113). -/
def handToPlacement (i : Fin 3) (f : CapturedFrame) (m : MatchResult) (origin : Point) (s : State) : State :=
  setSlot i { f with detection := .finished m.claims.keypoints (overflowOf f.detection) }
    { s with reg :=
      { s.reg with
        engine := .placing, anchors := m.claims.anchors, votes := m.votes
        handover := some ⟨origin, m.delta, m.count, m.support⟩ } }

/-- R103: the completion's two courses. -/
def completeRegistration (i : Fin 3) (f : CapturedFrame) (s : State) : State :=
  let m := registrationOf f s
  let rec' := fun o => registrationRecord o f s.reg.pred m.count m.support
  if m.reason = .none then
    let origin : Point := ⟨s.placement.origin.x + m.delta.x, s.placement.origin.y + m.delta.y⟩
    match classify s.sweep.params f.record.h origin m.delta with
    | some o => endRegistration i m.votes { rec' o with origin := origin, delta := m.delta } s
    | none => testDrain (handToPlacement i f m origin s)
  else endRegistration i m.votes { rec' .failed with reason := m.reason } s

/-- The engine is MATCHING a frame. -/
def canCompleteRegistration (s : State) : Bool := decide (s.reg.engine = .matching) && (frameInWork s).isSome

/-- The completion, on the frame in work. -/
def registrationEnd (s : State) : State :=
  match frameInWork s with
  | none => s
  | some (i, f) => completeRegistration i f s

/-- REGISTRATION_COMPLETE (R103). -/
def execRegistrationComplete (s : State) : Host.Outcome State Fault Refusal :=
  event canCompleteRegistration registrationEnd s

/-! ### PLACEMENT (R128 to R133) -/

/-- R104: the engine returns to WAITING at placement's event; prediction and vote grid stay as they were (log 25). -/
def releaseEngine (s : State) : State :=
  { s with reg := { s.reg with engine := .waiting, work := none, handover := none } }

/-- The outcome record of a frame at placement (R42, R121). -/
def placementRecord (o : FrameOutcome) (f : CapturedFrame) (h : Handover) (pred : Point) : OutcomeRecord :=
  { registrationRecord o f pred h.claims h.support with origin := h.origin, delta := h.delta }

/-- R129 to R131: GAP, SLOW or FULL: the slot is freed and nothing else of the canvas changes. -/
def refuseFrame (o : FrameOutcome) (i : Fin 3) (f : CapturedFrame) (h : Handover) (s : State) : State :=
  testDrain (decideOutcome (placementRecord o f h s.reg.pred) (freeSlot i (releaseEngine s)))

/-- R131: placement has room for the tiles the frame would write. -/
def hasRoom (eOld c1 eNew : Int) (s : State) : Bool :=
  ((List.range (eNew / 64 - c1 / 64 + 1).toNat).all fun n =>
    let t := c1 / 64 + n
    decide (eOld / 64 < t) || s.ring.tiles.any fun u => decide ((u.index : Int) = t ∧ u.state = .opened)) &&
  decide ((eNew / 64 - max (eOld / 64) (c1 / 64 - 1)).toNat ≤ 32 - s.ring.tiles.length)

/-- R132: COMPOSITED, step by step. -/
def compositeFrame (i : Fin 3) (f : CapturedFrame) (h : Handover) (band : Nat) (eNew : Int) (s : State) : State :=
  let m := workingMap s.tables
  let g := gainIndex s.placement.e0 f.record.exposure
  let cut := decide ((s.sweep.params.wmax : Int) - 1 < firstColumn h.origin + mapWidth m - 1)
  let drift := driftCrop m h.origin f.record.h s.sweep.hc (firstWritten s.placement.e band) eNew
  let s1 := placeFrame i f h.origin h.delta band eNew g (releaseEngine s)
  let r := { placementRecord .composited f h s.reg.pred with gain := g, driftCrop := drift, widthCut := cut }
  testDrain (examineTiles (takeWidthLimit (decideOutcome r s1)))

/-- R128: the four tests of placement. -/
def placeHandover (i : Fin 3) (f : CapturedFrame) (h : Handover) (s : State) : State :=
  let cx0 := firstColumn h.origin
  let e := s.placement.e
  let eNew := min (cx0 + mapWidth (workingMap s.tables) - 1) ((s.sweep.params.wmax : Int) - 1)
  let band := bandWidth (featherCount s.tables) e cx0
  if e + 1 < cx0 then refuseFrame .gap i f h s
  else if eNew ≤ e then refuseFrame .slow i f h s
  else if hasRoom e (firstWritten e band) eNew s then compositeFrame i f h band eNew s
  else refuseFrame .full i f h s

/-- The engine is PLACING a frame. -/
def canPlace (s : State) : Bool :=
  decide (s.reg.engine = .placing) && (frameInWork s).isSome && s.reg.handover.isSome

/-- Placement's event, on the frame in work. -/
def placementEvent (s : State) : State :=
  match frameInWork s, s.reg.handover with
  | some (i, f), some h => placeHandover i f h s
  | _, _ => s

/-- PLACEMENT (R128). -/
def execPlacement (s : State) : Host.Outcome State Fault Refusal := event canPlace placementEvent s

/-! ### The compositor (R139, R140) -/

/-- R139: the compositor is IDLE and the composite queue is not empty. -/
def canTakeComposite (s : State) : Bool := !s.comp.writing && !s.comp.queue.isEmpty

/-- R139: the compositor takes the head entry and is WRITING. -/
def takeComposite (s : State) : State := { s with comp := { s.comp with writing := true } }

/-- COMPOSITE_TAKE (R139). -/
def execCompositeTake (s : State) : Host.Outcome State Fault Refusal := event canTakeComposite takeComposite s

/-- What the composite of an entry reads (R139). -/
def paintInputs (en : CompositeEntry) (f : CapturedFrame) (s : State) : PaintInputs :=
  ⟨workingMap s.tables, s.tables.feather.getD ⟨0, []⟩, gainFactor (s.tables.gain.getD ⟨0, []⟩) en.gain, s.sweep.hc, f, en⟩

/-- R143 to R145: the entry's frame written into the tiles. -/
def paintEntry (en : CompositeEntry) (s : State) : State :=
  match s.capture.slots.get en.slot with
  | none => s
  | some f => { s with ring := { s.ring with tiles := s.ring.tiles.map (paintTile (paintInputs en f s)) } }

/-- R140: a composite completes. -/
def completeComposite (s : State) : State :=
  match s.comp.queue with
  | [] => s
  | en :: rest =>
    let s1 := changeWriters (· - 1) en.firstTile en.lastTile (paintEntry en s)
    testDrain (examineTiles { freeSlot en.slot s1 with comp := ⟨false, rest⟩ })

/-- The compositor is WRITING. -/
def canCompleteComposite (s : State) : Bool := s.comp.writing && !s.comp.queue.isEmpty

/-- COMPOSITE_COMPLETE (R140). -/
def execCompositeComplete (s : State) : Host.Outcome State Fault Refusal := event canCompleteComposite completeComposite s

end Sys2Proof.Machine
end

