-- ==== Sys2Proof/Machine/Dispatch.lean ====
section
/-! DEFINITION. The dispatch: one arm per command. -/

namespace Sys2Proof.Machine

def exec (i : Instr) (s : State) : Host.Outcome State Fault Refusal :=
  match i with
  | .pinReset => Sys2Proof.Machine.execPinReset s
  | .resetRelease modeHigh => Sys2Proof.Machine.execResetRelease modeHigh s
  | .powerLoss => Sys2Proof.Machine.execPowerLoss s
  | .huntLock bytes => Sys2Proof.Machine.execHuntLock bytes s
  | .syncLoss header => Sys2Proof.Machine.execSyncLoss header s
  | .openPacket body => Sys2Proof.Machine.execOpen body s
  | .linePacket body => Sys2Proof.Machine.execLine body s
  | .shutPacket body => Sys2Proof.Machine.execShut body s
  | .dirPacket body => Sys2Proof.Machine.execDir body s
  | .outletHold asserted => Sys2Proof.Machine.execOutletHold asserted s
  | .outletPacketComplete => Sys2Proof.Machine.execOutletPacketComplete s
  | .tileendComplete => Sys2Proof.Machine.execTileendComplete s
  | .status => Sys2Proof.Machine.execStatus s
  | .eventMask => Sys2Proof.Machine.execEventMask s
  | .counters => Sys2Proof.Machine.execCounters s
  | .resetEngine => Sys2Proof.Machine.execResetEngine s
  | .sweepArm => Sys2Proof.Machine.execSweepArm s
  | .sweepEnd => Sys2Proof.Machine.execSweepEnd s
  | .sweepAbort => Sys2Proof.Machine.execSweepAbort s
  | .sweepRelease => Sys2Proof.Machine.execSweepRelease s
  | .grant => Sys2Proof.Machine.execGrant s
  | .tablePage => Sys2Proof.Machine.execTablePage s
  | .profileRecall => Sys2Proof.Machine.execProfileRecall s
  | .profileErase => Sys2Proof.Machine.execProfileErase s
  | .profileWrite => Sys2Proof.Machine.execProfileWrite s
  | .profileVerify => Sys2Proof.Machine.execProfileVerify s
  | .profileBlankCheck => Sys2Proof.Machine.execProfileBlankCheck s
  | .profileProtect => Sys2Proof.Machine.execProfileProtect s
  | .profileEraseAll => Sys2Proof.Machine.execProfileEraseAll s
  | .profileDefault => Sys2Proof.Machine.execProfileDefault s
  | .profileInfo => Sys2Proof.Machine.execProfileInfo s
  | .unknownDirective => Sys2Proof.Machine.execUnknownDirective s
  | .profileEraseComplete => Sys2Proof.Machine.execProfileEraseComplete s
  | .profileWriteComplete => Sys2Proof.Machine.execProfileWriteComplete s
  | .profileVerifyComplete => Sys2Proof.Machine.execProfileVerifyComplete s
  | .profileBlankCheckComplete => Sys2Proof.Machine.execProfileBlankCheckComplete s
  | .eraseAllStageEnd => Sys2Proof.Machine.execEraseAllStageEnd s
  | .registrationTake => Sys2Proof.Machine.execRegistrationTake s
  | .registrationComplete => Sys2Proof.Machine.execRegistrationComplete s
  | .placement => Sys2Proof.Machine.execPlacement s
  | .compositeTake => Sys2Proof.Machine.execCompositeTake s
  | .compositeComplete => Sys2Proof.Machine.execCompositeComplete s
  | .tileRunTake => Sys2Proof.Machine.execTileRunTake s

end Sys2Proof.Machine
end

