-- ==== Sys2Proof/Safety.lean ====
section
/-! DEFINITION. What counts as a safe run, in the terms the statements use: no command stops the part, every queue, counter and
table keeps the form the spec gives it, and the blocks' states agree with one another; and the rows, offers and damaged frames the
statements speak of. -/

namespace Sys2Proof.Machine

/-- A step that answers a next state. -/
def completes (o : Host.Outcome State Fault Refusal) : Prop := ∃ t, o = .next t

/-- The commands that come from the lines and the power supply, and so come whether or not the part runs (R2, R14, R195). -/
def lineEvent : Instr → Bool
  | .pinReset | .resetRelease _ | .powerLoss | .outletHold _ => true
  | _ => false

/-! ### Frames -/

/-- R52, R54: `row` is the luma row that a LINE body gives a frame of width w: sample x is the run's sample x (its mirror in a
LEFTWARD sweep), the run's last one repeated where it is short, and 0 where it is empty. -/
def lumaRowOf (d : Direction) (body : List Byte) (w : Nat) (row : List Byte) : Prop :=
  let run := lumaRun body
  row.length = w ∧ ∀ x, x < w →
    row.getD x 0 = run.getD (min (if d = .leftward then w - 1 - x else x) (run.length - 1)) 0

/-- R52, R54: `pairs` is the chroma row that an even LINE's body gives a frame of width w: pair x is the run's pair x (its mirror
in a LEFTWARD sweep), the run's last whole pair repeated where it is short, and 128 where it has none. -/
def chromaRowOf (d : Direction) (body : List Byte) (w : Nat) (pairs : List (Byte × Byte)) : Prop :=
  let run := chromaRun body
  let from' := fun x => 2 * min (if d = .leftward then w / 2 - 1 - x else x) (run.length / 2 - 1)
  pairs.length = w / 2 ∧ ∀ x, x < w / 2 → pairs.getD x (128, 128) =
    if run.length < 2 then (128, 128) else (run.getD (from' x) 0, run.getD (from' x + 1) 0)

/-- R52: a LINE of a frame of width w needs a repair: its luma run is not w bytes, or on an even line its chroma run is not
2 * floor(w/2) bytes. -/
def needsRepair (w : Nat) (body : List Byte) : Bool :=
  decide ((lumaRun body).length ≠ w ∨ (lineNumber body % 2 = 0 ∧ (chromaRun body).length ≠ 2 * (w / 2)))

/-- R61: a detection context after the rows from number `from'` to the last of `rows` were offered to it, in order. -/
def offered (tau w h : Nat) (rows : List (List Byte)) (from' : Nat) (context : Detection) : Detection :=
  (List.range (rows.length - from')).foldl (fun d n => offerRow tau w h (rows.take (from' + n + 1)) d) context

/-- R42, R58, R134: the record of an outcome that a frame receives without registration: its sequence, its LINES_REPAIRED flag, and,
once its list is complete, its keypoints and its overflowed cells. -/
def CapturedFrame.outcome (f : CapturedFrame) (o : FrameOutcome) : OutcomeRecord :=
  { seq := f.record.seq, outcome := o, repaired := f.record.repaired
    keypoints := match f.detection with
      | .working _ _ _ _ => 0
      | .finished kps _ => kps.length
    overflow := match f.detection with
      | .working _ _ _ _ => 0
      | .finished _ cells => cells.countP id }

/-- R48 step 1, R44, R45: the state of the part once a whole OPEN is received and counted. -/
def State.counted (s : State) (body : List Byte) : State :=
  let hinted := (byteAt body 6).getLsbD 0
  { receivePacket body s with
    capture := { s.capture with
      seq := s.capture.seq + 1
      sumX := if hinted then s.capture.sumX + (halfAt body 8).signExtend 32 else s.capture.sumX
      sumY := if hinted then s.capture.sumY + (halfAt body 10).signExtend 32 else s.capture.sumY
      broken := if hinted then s.capture.broken else s.capture.broken + 1 }
    counters := { s.counters with opensSeen := min 65535 (s.counters.opensSeen + 1) } }

/-- R55: the state once the frame f of slot i has been given DAMAGED and its slot freed. -/
def State.damaged (s : State) (i : Fin 3) (f : CapturedFrame) : State :=
  decideOutcome { seq := f.record.seq, outcome := .damaged, repaired := f.record.repaired }
    { s with capture := { s.capture with
      slots := s.capture.slots.set i none, order := s.capture.order.filter fun j => decide (j ≠ i) } }

/-- R48 step 2: `d` is the state once a FILLING frame, if `u` has one, is DAMAGED. -/
def State.rid (u d : State) : Prop :=
  (fillingSlot u = none ∧ d = u) ∨ ∃ i f, fillingSlot u = some i ∧ u.capture.slots.get i = some f ∧ d = u.damaged i f

/-! ### Directives and notes -/

/-- The directives with a fixed parameter count: command, code, count (section 9.2, summary of directives). -/
def fixedDirectives : List (Instr × Byte × Nat) :=
  [(.status, 0x01, 0), (.eventMask, 0x02, 1), (.counters, 0x03, 1), (.resetEngine, 0x04, 0), (.sweepArm, 0x10, 13),
    (.sweepEnd, 0x11, 0), (.sweepAbort, 0x12, 0), (.sweepRelease, 0x13, 0), (.grant, 0x18, 1), (.profileRecall, 0x30, 1),
    (.profileErase, 0x31, 1), (.profileWrite, 0x32, 1), (.profileVerify, 0x33, 1), (.profileBlankCheck, 0x34, 1),
    (.profileProtect, 0x35, 0), (.profileEraseAll, 0x36, 0), (.profileDefault, 0x37, 1), (.profileInfo, 0x38, 0)]

/-- The profile directives of R187: command, code, parameter count, whether NORMAL refuses it, whether the protect flag
refuses it, and the number of legal slot values (0 for a directive without a slot). -/
def profileDirectives : List (Instr × Byte × Nat × Bool × Bool × Nat) :=
  [(.profileRecall, 0x30, 1, false, false, 4), (.profileErase, 0x31, 1, true, true, 4),
    (.profileWrite, 0x32, 1, true, true, 4), (.profileVerify, 0x33, 1, false, false, 4),
    (.profileBlankCheck, 0x34, 1, false, false, 4), (.profileProtect, 0x35, 0, true, true, 0),
    (.profileEraseAll, 0x36, 0, true, false, 0), (.profileDefault, 0x37, 1, true, true, 5),
    (.profileInfo, 0x38, 0, false, false, 0)]

/-- R167: the running part's directive unit is FREE, and the directive with this body is the oldest of the queue. -/
def State.offers (s : State) (body : List Byte) (rest : List (List Byte)) : Prop :=
  s.power = .running ∧ s.dirs.replyWaiting = false ∧ s.dirs.queue = body :: rest

/-- The state with the directive queue's oldest entry gone and `rest` left. -/
def State.taken (s : State) (rest : List (List Byte)) : State := { s with dirs := { s.dirs with queue := rest } }

/-- R171: either the note queue is full, or no reply waits and no unmasked kind is pending. -/
def NoteUnit.settled (n : NoteUnit) : Prop :=
  n.queue.length ≤ noteSlots ∧
    (n.queue.length = noteSlots ∨ (n.replies = [] ∧ ∀ k, n.unmasked.get k = true → n.pending.get k = none))

/-- The replies waiting that this block made. -/
def NoteUnit.waitingFrom (n : NoteUnit) (src : ReplySource) : Nat := n.replies.countP fun r => decide (r.source = src)

/-- R167, R168, R171: the directive unit has one reply waiting when it is REPLY_WAITING and none when it is FREE; in the
running part the profile store has at most one operation or one waiting reply, and is busy while it has either. -/
def State.repliesAgree (s : State) : Prop :=
  s.notes.waitingFrom .directiveUnit = s.dirs.replyWaiting.toNat ∧
    (s.power = .running →
      s.notes.waitingFrom .profileStore + s.store.marker.isSome.toNat = s.store.busy.isSome.toNat)

/-! ### Bounds -/

/-- Every profile slot's wear is at most 250 and its image is in canonical form (R186). -/
def Store.sound (st : Store) : Prop := ∀ i : Fin 4, (st.slots.get i).wear ≤ wearLimit ∧ (st.slots.get i).image.wf

/-- The rooms of R10, R166 and R170 are kept. -/
def State.roomsKept (s : State) : Prop :=
  s.forward.length ≤ forwardRoom ∧ s.dirs.queue.length ≤ directiveRoom ∧ s.notes.queue.length ≤ noteSlots

/-- R154: the credits stay within 0..255. -/
def State.creditsKept (s : State) : Prop := s.ring.credits ≤ 255

/-- Section 9.6: the eight counters are 16-bit values. -/
def Counters.sound (c : Counters) : Prop :=
  c.opensSeen ≤ 65535 ∧ c.framesComposited ≤ 65535 ∧ c.framesNotComposited ≤ 65535 ∧ c.tilesEmitted ≤ 65535 ∧
    c.syncLosses ≤ 65535 ∧ c.directivesDropped ≤ 65535 ∧ c.passthroughDrops ≤ 65535 ∧ c.linesRepaired ≤ 65535

/-- R157: a SWEEP_ABORT waits directly behind the event at hand, it is the directive on offer, and the sweep is one that it ends:
the two have arrived together (log 27). -/
def State.abortBehind (s : State) : Prop :=
  s.pending.head? = some .sweepAbort ∧ (∃ body rest, s.offers body rest ∧ dirCode body = 0x12 ∧ dirParams body = some []) ∧
    s.sweep.state ≠ .idle ∧ s.sweep.state ≠ .ended

/-- R13: where the part runs and the hold line is deasserted, an idle lane means that no claimant offers a packet, but for the
TILEHEAD of a run whose SWEEP_ABORT has arrived together with its take (R157). -/
def State.laneAgrees (s : State) : Prop :=
  s.power = .running → s.holdLine = false → s.outlet.sending = none →
    s.forward = [] ∧ s.notes.queue = [] ∧
      (s.ring.run = none ∨ s.abortBehind ∧ ∃ r, s.ring.run = some r ∧ r.next = .head)

/-- R6, R7: HUNT keeps fewer than six bytes; a current packet has a permitted length and is not yet whole. -/
def Inlet.kept (n : Inlet) : Prop :=
  match n.framing with
  | .hunt bytes => bytes.length ≤ 5
  | .locked none => True
  | .locked (some p) => lengthPermitted p.kind p.length = true ∧ p.received.length < p.length

/-! ### Tables -/

/-- A COLUMN_MAP that passed validation, with as many entries as its header counts (R180, R185). -/
def ColumnMap.valid (m : ColumnMap) : Prop := columnMapFault m = none ∧ m.entries.length = m.k

/-- A FEATHER table that passed validation (R180, R185). -/
def ValueTable.validFeather (v : ValueTable) : Prop := featherFault v = none ∧ v.values.length = v.count

/-- A GAIN table that passed validation (R180, R185). -/
def ValueTable.validGain (v : ValueTable) : Prop := gainFault v = none ∧ v.values.length = v.count

/-- R179: every VALID table holds a content that passed validation; an open assembly holds a whole header (R181). -/
def Tables.sound (t : Tables) : Prop :=
  (∀ m, t.columnMap = some m → m.valid) ∧ (∀ v, t.feather = some v → v.validFeather) ∧
    (∀ v, t.gain = some v → v.validGain) ∧ ∀ a, t.assembly = some a → a.header.length = headerWords a.table

/-- R23, R82: a sweep exists only with all three tables VALID, and every VALID table is sound. -/
def State.tablesAgree (s : State) : Prop :=
  s.tables.sound ∧ (s.sweep.state ≠ .idle → tableValidity s.tables = 7)

/-! ### The sweep -/

/-- The legal values of R23, for the recorded parameters. -/
def SweepParams.legal (p : SweepParams) : Prop :=
  (p.margin ≤ 256 ∧ p.margin % 4 = 0) ∧ (1024 ≤ p.wmax ∧ p.wmax ≤ 16384 ∧ p.wmax % 64 = 0) ∧ (4 ≤ p.tau ∧ p.tau ≤ 63) ∧
    p.dmax ≤ 12 ∧ p.early ≤ p.dmax ∧ (16 ≤ p.rx ∧ p.rx ≤ 252 ∧ p.rx % 4 = 0) ∧ (16 ≤ p.ry ∧ p.ry ≤ 124 ∧ p.ry % 4 = 0) ∧
    (3 ≤ p.minSupport ∧ p.minSupport ≤ 32) ∧ p.aMin ≤ 1024 ∧ p.tRev ≤ 256 ∧ (1 ≤ p.coastLimit ∧ p.coastLimit ≤ 30) ∧
    p.credits ≤ 255

/-- R24, R38: while a sweep exists its recorded parameters are legal. -/
def Sweep.paramsAgree (w : Sweep) : Prop := w.state ≠ .idle → w.params.legal

/-- R30: TRACKING has coast counter 0, COASTING has it above 0 and below coast_limit, and no state has it above; coast_limit
is at least 1 while a sweep runs (R24). -/
def Sweep.coastAgrees (w : Sweep) : Prop :=
  w.coast ≤ w.params.coastLimit ∧ (w.state = .tracking → w.coast = 0) ∧
    (w.state = .coasting → 0 < w.coast ∧ w.coast < w.params.coastLimit) ∧
    (w.state ≠ .idle → w.state ≠ .ended → 1 ≤ w.params.coastLimit)

/-- R46, R47: the capture order lists exactly the occupied slots, each once, and at most one slot is FILLING. -/
def State.captureAgrees (s : State) : Prop :=
  s.capture.order.Nodup ∧ (∀ i, i ∈ s.capture.order ↔ (s.capture.slots.get i).isSome = true) ∧
    ∀ i j, slotState s i = some .filling → slotState s j = some .filling → i = j

/-- R100, R101, R138: the REGISTERING slot is the frame in work of a MATCHING or PLACING engine, and the PLACED slots are
those of the composite queue, one entry each; a WRITING compositor has an entry. -/
def State.workAgrees (s : State) : Prop :=
  (∀ i, slotState s i = some .registering ↔ s.reg.engine ≠ .waiting ∧ s.reg.work = some i) ∧
    (s.reg.engine ≠ .waiting → s.reg.work.isSome = true) ∧
    (s.comp.queue.map (·.slot)).Nodup ∧ (∀ i, slotState s i = some .placed ↔ i ∈ s.comp.queue.map (·.slot)) ∧
    (s.comp.writing = true → s.comp.queue ≠ [])

/-- R22, R25, R34, R38: no slot is FILLING or READY outside the capturing states; in IDLE, ARMED and ENDED nothing is
registered, queued for compositing or resident in the ring; in ARMED no column has been given. -/
def State.phaseAgrees (s : State) : Prop :=
  (capturing s.sweep.state = false → ∀ i, slotState s i ≠ some .filling ∧ slotState s i ≠ some .ready) ∧
    (s.sweep.state = .idle ∨ s.sweep.state = .armed ∨ s.sweep.state = .ended →
      s.reg.engine = .waiting ∧ s.comp.queue = [] ∧ s.ring.tiles = []) ∧
    (s.sweep.state = .armed → s.placement.e = -1)

/-- The blocks of the sweep side agree with one another. -/
def State.coherent (s : State) : Prop := s.captureAgrees ∧ s.workAgrees ∧ s.phaseAgrees

/-! ### The ring -/

/-- R147, R148, R151: the resident tiles stand in increasing index, none above E; the sealed queue lists the SEALED tiles, each
once; an EMITTING tile is that of the run in progress; only OPEN tiles have writers. -/
def State.ringAgrees (s : State) : Prop :=
  -1 ≤ s.placement.e ∧ (s.ring.tiles.map (·.index)).Pairwise (· < ·) ∧
    (∀ t ∈ s.ring.tiles, (64 * t.index : Int) ≤ s.placement.e) ∧ s.ring.sealedQueue.Nodup ∧
    (∀ n, n ∈ s.ring.sealedQueue ↔ ∃ t ∈ s.ring.tiles, t.index = n ∧ t.state = .sealed) ∧
    (∀ t ∈ s.ring.tiles, t.state = .emitting → ∃ r, s.ring.run = some r ∧ r.tile = t.index) ∧
    ∀ t ∈ s.ring.tiles, t.state ≠ .opened → t.writers = 0

/-- The entry's tile range contains the tile (R136). -/
def CompositeEntry.covers (en : CompositeEntry) (t : Tile) : Bool :=
  decide (en.firstTile ≤ t.index ∧ t.index ≤ en.lastTile)

/-- R136: a tile's writer count is the number of entries of the composite queue whose tile range contains it; no entry reaches
above E. -/
def State.writersAgree (s : State) : Prop :=
  (∀ t ∈ s.ring.tiles, t.writers = s.comp.queue.countP fun en => en.covers t) ∧
    ∀ en ∈ s.comp.queue, (64 * en.lastTile : Int) ≤ s.placement.e

end Sys2Proof.Machine
end

