-- ==== Sys2Proof/Certificates/Slice0/Obligations.lean ====
section
/-! DEFINITION. The statements for the provers, in the order of OBLIGATIONS.json. Where a result goes on with the shared
operations `replyTo`, `storeReply`, `raise`, `changeSweep` or `decideOutcome`, what those do is stated by statements of their own.
Every running event ends with `arbitrate` (R13, R14), and within an OPEN it stands between the capture unit's offers and the
forward queue's (R9): where else one event makes two offers, at a run's take, their order is the model's choice (log 8), and no
statement claims it of the spec. -/

open Sys2Proof Sys2Proof.Machine

/-! ### The block, its lines and its reset -/

/-- The command at the front of the queue is executed on the state with the queue's rest. An empty queue idles: the model's
choice (log 16). -/
def Obligations.StepTakesTheFrontCommand : Prop :=
  ∀ s : State, (∀ c rest, s.pending = c :: rest → step s = exec c { s with pending := rest }) ∧
    (s.pending = [] → step s = .next s)

/-- No command stops the part, and none touches the queue behind it. While the part is in reset or without power, only the
lines and the power supply change anything: that a command then leaves the state as it is, is the model's choice (log 1). -/
def Obligations.EveryCommandReachesANextState : Prop :=
  ∀ (c : Instr) (s : State), (∃ t, exec c s = .next t ∧ t.pending = s.pending) ∧
    (s.power ≠ .running → lineEvent c = false → exec c s = .next s)

/-- R2 and R3: PIN_RESET stops the lanes; the release gives every block its power-on state and samples MODE, which no other
command changes. What the other blocks hold while RESET is asserted, and that a part without power stays so, are the model's
choice (log 7). -/
def Obligations.ResetLineStopsThePartAndReleaseRestartsIt : Prop :=
  (∀ s : State, exec .pinReset s = .next { s with
      power := if s.power = .off then .off else .inReset
      inlet := { s.inlet with framing := .hunt [] }
      outlet := { s.outlet with sending := none } }) ∧
  (∀ (s : State) (high : Bool), ∃ t, exec (.resetRelease high) s = .next t ∧ t.power = .running ∧
      t.mode = (if high then .service else .normal) ∧ t.inlet = ⟨.hunt [], 0⟩ ∧ t.forward = [] ∧ t.outlet = ⟨none, 0⟩ ∧
      t.capture = ⟨0, 0, 0, 0, ⟨none, none, none⟩, []⟩ ∧
      t.reg = ⟨.waiting, none, [], ⟨0, 0, 0⟩, ⟨0, 0⟩, List.replicate 512 0, none⟩ ∧
      t.placement = ⟨-1, 0, ⟨0, 0⟩, 0, ⟨0, 0⟩⟩ ∧ t.comp = ⟨false, []⟩ ∧ t.ring = ⟨[], [], none, 0, false, none⟩ ∧
      t.sweep = ⟨.idle, .none, 0, ⟨.rightward, 0, 0, 0, 0, 0, 0, 0, 0, 0, 0, 0, 0⟩, 0, 0, 0, 0⟩ ∧
      t.dirs = ⟨[], false⟩ ∧ t.notes.queue = [] ∧ t.notes.replies = [] ∧ (∀ k, t.notes.unmasked.get k = false) ∧
      (∀ k, t.notes.pending.get k = none) ∧ t.counters = ⟨0, 0, 0, 0, 0, 0, 0, 0⟩ ∧ t.tables.assembly = none ∧
      t.store.busy = none ∧ t.store.marker = none) ∧
  ∀ (c : Instr) (s t : State), exec c s = .next t → (∀ high, c ≠ .resetRelease high) → t.mode = s.mode

/-- R195 and R196: power loss keeps the non-volatile state and the marker; at the release the marked slot is TORN and every
other slot as it was; then the working tables come from the default slot, or are all EMPTY. -/
def Obligations.PowerOnTearsTheCutSlotAndRecallsTheDefault : Prop :=
  ∀ (s : State) (high : Bool),
    (∃ t, exec .powerLoss s = .next t ∧ t.power = .off ∧ t.store.slots = s.store.slots ∧
      t.store.isProtected = s.store.isProtected ∧ t.store.defaultSlot = s.store.defaultSlot ∧
      t.store.marker = s.store.marker) ∧
    ∃ t, exec (.resetRelease high) s = .next t ∧ t.store.marker = none ∧ t.store.busy = none ∧
      t.store.isProtected = s.store.isProtected ∧ t.store.defaultSlot = s.store.defaultSlot ∧
      (∀ i, (∀ m, s.store.marker = some m → m.slot ≠ i) → t.store.slots.get i = s.store.slots.get i) ∧
      (∀ m, s.store.marker = some m → (t.store.slots.get m.slot).state = .torn ∧
        (t.store.slots.get m.slot).wear = (s.store.slots.get m.slot).wear) ∧
      (∀ i m f g, t.store.defaultSlot = some i → (t.store.slots.get i).state = .written →
        recallImage (t.store.slots.get i).image = .ok (m, f, g) → t.tables = ⟨some m, some f, some g, none⟩) ∧
      (t.store.defaultSlot = none ∨
          (∃ i, t.store.defaultSlot = some i ∧ ((t.store.slots.get i).state ≠ .written ∨
            ∃ e, recallImage (t.store.slots.get i).image = .error e)) →
        t.tables = ⟨none, none, none, none⟩)

/-! ### The inlet -/

/-- R4, R5: the header test accepts the header of every inlet kind and permitted length, refuses the others by the first test
they fail, and accepts no other six bytes. -/
def Obligations.HeaderTestAcceptsExactlyTheEncodedHeaders : Prop :=
  (∀ (kind : PacketKind) (n : Nat), n < 65536 →
    testHeader (headerBytes kind n) =
      if kind = .openKind ∨ kind = .lineKind ∨ kind = .shutKind ∨ kind = .dirKind then
        (if lengthPermitted kind n then .ok (kind, n) else .error .badLength)
      else .error .unknownKind) ∧
  ∀ (h : List Byte) (kind : PacketKind) (n : Nat), h.length = 6 → testHeader h = .ok (kind, n) → h = headerBytes kind n

/-- R6: in HUNT the receiver locks on the first position whose six bytes are a valid header, the bytes behind it being the
first of its body; where no position passes it stays in HUNT with the bytes not yet discarded. Nothing else changes. How the
operand carries the bytes, and that a body's last byte comes with its packet's own command, is the model's choice (log 15). -/
def Obligations.HuntLocksOnTheFirstValidHeader : Prop :=
  ∀ (s : State) (kept bytes : List Byte), s.power = .running → s.inlet.framing = .hunt kept →
    (∀ pre header post kind n, kept ++ bytes = pre ++ header ++ post → header.length = 6 →
      testHeader header = .ok (kind, n) →
      (∀ i, i < pre.length → ∀ k m, testHeader (((kept ++ bytes).drop i).take 6) ≠ .ok (k, m)) → post.length < n →
      exec (.huntLock bytes) s = .next (arbitrate
        { s with inlet := ⟨.locked (some ⟨kind, n, post⟩), (s.inlet.lane + bytes.length) % 2⟩ })) ∧
    ((∀ i, i + 6 ≤ (kept ++ bytes).length → ∀ k m, testHeader (((kept ++ bytes).drop i).take 6) ≠ .ok (k, m)) →
      exec (.huntLock bytes) s = .next (arbitrate
        { s with inlet := ⟨.hunt ((kept ++ bytes).drop ((kept ++ bytes).length - 5)),
            (s.inlet.lane + bytes.length) % 2⟩ }))

/-- R7, R8, R55: a header tested in LOCKED that fails loses sync: HUNT resumes behind its first byte, LINK_SYNC and SYNC_LOSSES,
and a FILLING frame's outcome is DAMAGED, with its sequence and its LINES_REPAIRED flag, and its slot is freed. A valid one becomes
the current packet's. -/
def Obligations.FailedHeaderLosesSync : Prop :=
  ∀ (s : State) (header : List Byte), s.power = .running → s.inlet.framing = .locked none → header.length = 6 →
    (∀ f, testHeader header = .error f →
      let u : State :=
        { raise .linkSync [natWord (headerFaultCode f), natWord (if f = .noSync then 0 else (byteAt header 2).toNat),
            natWord s.capture.seq.toNat] s with
          inlet := ⟨.hunt (header.drop 1), (s.inlet.lane + 6) % 2⟩
          counters := { s.counters with syncLosses := min 65535 (s.counters.syncLosses + 1) } }
      (fillingSlot s = none → exec (.syncLoss header) s = .next (arbitrate u)) ∧
      ∀ i g, fillingSlot s = some i → s.capture.slots.get i = some g →
        exec (.syncLoss header) s = .next (arbitrate (decideOutcome
          { seq := g.record.seq, outcome := .damaged, repaired := g.record.repaired }
          { u with capture := { s.capture with
            slots := s.capture.slots.set i none, order := s.capture.order.filter fun j => decide (j ≠ i) } })) ∧
        ∃ t, exec (.syncLoss header) s = .next t ∧ t.capture.slots.get i = none ∧ i ∉ t.capture.order ∧
          t.inlet.framing = .hunt (header.drop 1)) ∧
    ∀ kind n, testHeader header = .ok (kind, n) →
      exec (.syncLoss header) s = .next (arbitrate
        { s with inlet := ⟨.locked (some ⟨kind, n, []⟩), (s.inlet.lane + 6) % 2⟩ })

/-- R44, R45: every whole OPEN, in every sweep state, takes the next sequence and carries the hint chain forward; no other
command but the release (and the loss of power) changes either; after the release both stand at 0. -/
def Obligations.OpenCountsAndCarriesTheHintChain : Prop :=
  (∀ (s : State) (high : Bool), ∃ t, exec (.resetRelease high) s = .next t ∧ t.capture.seq = 0 ∧ t.capture.sumX = 0 ∧
    t.capture.sumY = 0 ∧ t.capture.broken = 0) ∧
  (∀ (s : State) (body : List Byte), s.power = .running → canComplete .openKind body s = true →
    ∃ t, exec (.openPacket body) s = .next t ∧ t.capture.seq = s.capture.seq + 1 ∧
      t.counters.opensSeen = min 65535 (s.counters.opensSeen + 1) ∧
      ((byteAt body 6).getLsbD 0 = true → t.capture.sumX = s.capture.sumX + (halfAt body 8).signExtend 32 ∧
        t.capture.sumY = s.capture.sumY + (halfAt body 10).signExtend 32 ∧ t.capture.broken = s.capture.broken) ∧
      ((byteAt body 6).getLsbD 0 = false → t.capture.sumX = s.capture.sumX ∧ t.capture.sumY = s.capture.sumY ∧
        t.capture.broken = s.capture.broken + 1)) ∧
  ∀ (c : Instr) (s t : State), exec c s = .next t → (∀ high, c ≠ .resetRelease high) → c ≠ .powerLoss →
    (∀ body, c ≠ .openPacket body) →
    t.capture.seq = s.capture.seq ∧ t.capture.sumX = s.capture.sumX ∧ t.capture.sumY = s.capture.sumY ∧
      t.capture.broken = s.capture.broken

/-! ### Capture -/

/-- R44 to R48, R60: an OPEN outside the capturing states is counted and forwarded, no further. In them a FILLING frame is first
DAMAGED; where that ends capture the new frame is not stored. Otherwise, with the COLUMN_MAP's size, the lowest-numbered FREE slot
becomes FILLING with the frame's record and a fresh detection context, and the frame joins the capture order. The packet is offered
to the forward queue behind the capture unit (R9). -/
def Obligations.OpenFillsTheLowestFreeSlot : Prop :=
  ∀ (s : State) (body : List Byte), s.power = .running → canComplete .openKind body s = true →
    let forwarded := fun u : State => exec (.openPacket body) s =
      .next (arbitrate (offerForward ⟨.openKind, body⟩ (arbitrate u)))
    let u := s.counted body
    (capturing s.sweep.state = false → forwarded u) ∧
    (capturing s.sweep.state = true → ∀ d, u.rid d →
      (capturing d.sweep.state = false → forwarded d) ∧
      ∀ (j : Fin 3) (m : ColumnMap), capturing d.sweep.state = true → s.tables.columnMap = some m →
        (halfAt body 0).toNat = m.wFor → (halfAt body 2).toNat = m.hFor →
        d.capture.slots.get j = none → (∀ k, k < j → d.capture.slots.get k ≠ none) →
        let c := u.capture
        let roll : BitVec 4 := if (byteAt body 6).getLsbD 0 = true then
            (if s.sweep.params.direction = .leftward then -(byteAt body 7).extractLsb' 0 4
              else (byteAt body 7).extractLsb' 0 4)
          else s.placement.roll
        let record : FrameRecord :=
          ⟨c.seq, if s.sweep.params.direction = .leftward then -c.sumX else c.sumX, c.sumY, c.broken,
            min 4095 (halfAt body 4).toNat, roll, m.wFor, m.hFor, 0, 0, false⟩
        forwarded { d with capture := { d.capture with
          slots := d.capture.slots.set j (some ⟨.filling, record, [], [],
            .working 0 [] (List.replicate 32 []) (List.replicate 32 false)⟩)
          order := d.capture.order ++ [j] } })

/-- R31, R41, R48, R49, R58: an OPEN of another size than the COLUMN_MAP's, once a FILLING frame is DAMAGED and capture goes on, is
GEOMETRY: its outcome, then those of the READY slots it frees, each DISCARDED and counted (see
SweepEndAndReleaseFollowTheSweepState), then the end of tracking with cause GEOMETRY. One of the right size that finds no FREE slot is
NOT_CAPTURED. Neither changes the coast counter. -/
def Obligations.OpenThatCannotBeStoredGetsItsOutcome : Prop :=
  ∀ (s d : State) (body : List Byte), s.power = .running → canComplete .openKind body s = true →
    capturing s.sweep.state = true → s.captureAgrees → (s.counted body).rid d → capturing d.sweep.state = true →
    let forwarded := fun u : State => exec (.openPacket body) s =
      .next (arbitrate (offerForward ⟨.openKind, body⟩ (arbitrate u)))
    let told := fun o : FrameOutcome =>
      raise .frameOutcome (outcomeWords { seq := s.capture.seq + 1, outcome := o } d.sweep.id d.sweep.coast)
        { d with counters :=
          { d.counters with framesNotComposited := min 65535 (d.counters.framesNotComposited + 1) } }
    let right := (halfAt body 0).toNat = (workingMap s.tables).wFor ∧ (halfAt body 2).toNat = (workingMap s.tables).hFor
    (right → (∀ i, d.capture.slots.get i ≠ none) → forwarded (told .notCaptured)) ∧
    (¬right →
      (d.sweep.state = .armed → forwarded (changeSweep .ended .geometry (discardCaptured (told .geometry)))) ∧
      (d.sweep.state ≠ .armed → forwarded (enterDraining .geometry (discardCaptured (told .geometry)))) ∧
      ∃ t, exec (.openPacket body) s = .next t ∧ t.sweep.cause = .geometry ∧ t.sweep.coast = d.sweep.coast ∧
        (d.sweep.state = .armed → t.sweep.state = .ended) ∧
        (d.sweep.state ≠ .armed → t.sweep.state = .draining ∨ t.sweep.state = .ended) ∧
        (∀ i, slotState t i ≠ some .filling ∧ slotState t i ≠ some .ready) ∧
        (∀ i, slotState d i ≠ some .ready → t.capture.slots.get i = d.capture.slots.get i) ∧
        (d.counters.sound → t.counters.framesNotComposited = min 65535 (d.counters.framesNotComposited + 1 +
          (slotNumbers.filter fun i => decide (slotState d i = some .ready)).length)) ∧
        t.reg = s.reg ∧ t.placement = s.placement ∧ t.comp = s.comp)

/-- R50, R52, R54: the expected line is stored as its row: each sample x of the row is the run's sample x (its mirror in a
LEFTWARD sweep), the last one repeated where the run is short and the fill where it is empty; a repair is counted once. The
packet is offered to the forward queue as well (R9). -/
def Obligations.ExpectedLineIsStoredAsItsRow : Prop :=
  ∀ (s : State) (body : List Byte) (i : Fin 3) (f : CapturedFrame), s.power = .running →
    canComplete .lineKind body s = true → fillingSlot s = some i → s.capture.slots.get i = some f →
    lineNumber body = f.record.nextLine → f.record.nextLine < f.record.h → f.record.missing ≤ 8 →
    let w := f.record.w
    let repair := needsRepair w body
    let u := offerForward ⟨.lineKind, body⟩ (receivePacket body s)
    ∃ (row : List Byte) (pairs : List (Byte × Byte)),
      lumaRowOf s.sweep.params.direction body w row ∧ chromaRowOf s.sweep.params.direction body w pairs ∧
      exec (.linePacket body) s = .next (arbitrate { u with
        capture := { s.capture with slots := s.capture.slots.set i (some { f with
          luma := f.luma ++ [row]
          chroma := if f.record.nextLine % 2 = 0 then f.chroma ++ [pairs] else f.chroma
          record := { f.record with nextLine := f.record.nextLine + 1, repaired := f.record.repaired || repair }
          detection := offerRow s.sweep.params.tau w f.record.h (f.luma ++ [row]) f.detection }) }
        counters := { u.counters with linesRepaired := min 65535 (s.counters.linesRepaired + repair.toNat) } })

/-- R50 to R55: a line behind a gap: up to 8 missing lines in all are made up by copies of the last stored row and counted, the line
is stored behind them as its row (see ExpectedLineIsStoredAsItsRow), and each row is offered to the detector in turn. Above 8 the
frame's outcome is DAMAGED, with its sequence and its LINES_REPAIRED flag, its slot freed and nothing made up. That the LINE is
offered to the forward queue before the capture unit's outcome is decided, in their notes and on the lane, is the model's choice
(log 10). -/
def Obligations.GapIsMadeUpOrDamagesTheFrame : Prop :=
  ∀ (s : State) (body : List Byte) (i : Fin 3) (f : CapturedFrame), s.power = .running →
    canComplete .lineKind body s = true → fillingSlot s = some i → s.capture.slots.get i = some f →
    f.record.nextLine < lineNumber body → lineNumber body < f.record.h →
    let n := lineNumber body
    let gap := n - f.record.nextLine
    let w := f.record.w
    let u := offerForward ⟨.lineKind, body⟩ (receivePacket body s)
    (f.record.missing + gap ≤ 8 → ∃ (row : List Byte) (pairs : List (Byte × Byte)),
      lumaRowOf s.sweep.params.direction body w row ∧ chromaRowOf s.sweep.params.direction body w pairs ∧
      let luma := f.luma ++ List.replicate gap (f.luma.getLastD (List.replicate w 0)) ++ [row]
      exec (.linePacket body) s = .next (arbitrate { u with
        capture := { s.capture with slots := s.capture.slots.set i (some { f with
          luma := luma
          chroma := f.chroma ++ List.replicate ((n + 1) / 2 - (f.record.nextLine + 1) / 2)
            (f.chroma.getLastD (List.replicate (w / 2) (128, 128))) ++ (if n % 2 = 0 then [pairs] else [])
          record := { f.record with nextLine := n + 1, missing := f.record.missing + gap, repaired := true }
          detection := offered s.sweep.params.tau w f.record.h luma f.luma.length f.detection }) }
        counters := { u.counters with
          linesRepaired := min 65535 (s.counters.linesRepaired + gap + (needsRepair w body).toNat) } })) ∧
    (8 < f.record.missing + gap →
      exec (.linePacket body) s = .next (arbitrate (u.damaged i f)) ∧
      ∃ t, exec (.linePacket body) s = .next t ∧ t.capture.slots.get i = none ∧
        i ∉ t.capture.order ∧ t.counters.linesRepaired = s.counters.linesRepaired)

/-- R10, R50, R56: a LINE or SHUT while no slot is FILLING, and a LINE whose number is below the next expected line or above H - 1,
is ignored by capture and offered to the forward queue, which appends it or, with 4 packets held, drops it with PASSTHROUGH_DROP and
its counter. Last clause: the same of any packet offered. -/
def Obligations.UncapturedPacketIsOnlyForwarded : Prop :=
  (∀ (s : State) (body : List Byte), s.power = .running →
    (canComplete .lineKind body s = true →
      (fillingSlot s = none ∨ (∃ i f, fillingSlot s = some i ∧ s.capture.slots.get i = some f ∧
        (lineNumber body < f.record.nextLine ∨ f.record.h ≤ lineNumber body))) →
      exec (.linePacket body) s = .next (arbitrate (offerForward ⟨.lineKind, body⟩ (receivePacket body s)))) ∧
    (canComplete .shutKind body s = true → fillingSlot s = none →
      exec (.shutPacket body) s = .next (arbitrate (offerForward ⟨.shutKind, body⟩ (receivePacket body s))))) ∧
  ∀ (s : State) (p : Packet),
    (s.forward.length < 4 → offerForward p s = { s with forward := s.forward ++ [p] }) ∧
    (4 ≤ s.forward.length → offerForward p s =
      { raise .passthroughDrop [natWord (kindCode p.kind).toNat, natWord s.capture.seq.toNat,
          natWord (if p.kind = .lineKind then (halfAt p.body 0).toNat else 0)] s with
        counters := { s.counters with passthroughDrops := min 65535 (s.counters.passthroughDrops + 1) } })

/-- R53, R55, R72: a SHUT with at most 8 lines missing in all makes the bottom rows up, offers each to the detector, and the slot is
READY with the list of its context: the cells' selections in the order cell, strength descending, raster, each record's index its
position. Above 8 the frame's outcome is DAMAGED, with its sequence and its LINES_REPAIRED flag, and its slot is freed. That the SHUT
is offered to the forward queue before that outcome is decided is the model's choice (log 10). -/
def Obligations.ShutMakesTheSlotReadyOrDamaged : Prop :=
  (∀ (s : State) (body : List Byte) (i : Fin 3) (f : CapturedFrame), s.power = .running →
    canComplete .shutKind body s = true → fillingSlot s = some i → s.capture.slots.get i = some f →
    let gap := f.record.h - f.record.nextLine
    let w := f.record.w
    let u := offerForward ⟨.shutKind, body⟩ (receivePacket body s)
    let luma := f.luma ++ List.replicate gap (f.luma.getLastD (List.replicate w 0))
    (f.record.missing + gap ≤ 8 →
      exec (.shutPacket body) s = .next (arbitrate { u with
        capture := { s.capture with slots := s.capture.slots.set i (some {
          state := .ready
          luma := luma
          chroma := f.chroma ++ List.replicate ((f.record.nextLine + gap + 1) / 2 - (f.record.nextLine + 1) / 2)
            (f.chroma.getLastD (List.replicate (w / 2) (128, 128)))
          record := { f.record with
            nextLine := f.record.nextLine + gap, missing := f.record.missing + gap
            repaired := f.record.repaired || decide (gap ≠ 0) }
          detection := finishDetection (offered s.sweep.params.tau w f.record.h luma f.luma.length f.detection) }) }
        counters := { u.counters with linesRepaired := min 65535 (s.counters.linesRepaired + gap) } })) ∧
    (8 < f.record.missing + gap →
      exec (.shutPacket body) s = .next (arbitrate (u.damaged i f)) ∧
      ∃ t, exec (.shutPacket body) s = .next t ∧ t.capture.slots.get i = none ∧
        i ∉ t.capture.order ∧ t.counters.linesRepaired = s.counters.linesRepaired)) ∧
  ∀ (rows : Nat) (pend : List Candidate) (cells : List (List Candidate)) (overflow : List Bool),
    ∃ kps : List Keypoint, finishDetection (.working rows pend cells overflow) = .finished kps overflow ∧
      (∀ (n : Nat) (k : Keypoint), kps[n]? = some k → k.index = n ∧ k.matched = none) ∧
      kps.Pairwise (fun a b => a.cell < b.cell ∨ (a.cell = b.cell ∧ (b.strength < a.strength ∨
        (a.strength = b.strength ∧ (a.y < b.y ∨ (a.y = b.y ∧ a.x ≤ b.x)))))) ∧
      ∀ c : Nat, ((kps.filter fun k => decide (k.cell = c)).map fun k =>
        Candidate.mk k.x k.y k.polarity k.strength k.ring k.chord).Perm (cells.getD c [])

/-! ### The directive queue, the outlet, the emitter -/

/-- R166: a whole DIR packet is appended unexamined, or with 8 held dropped, counted and reported. R1, R5, R7: which body makes a
packet of an inlet kind whole: the receiver is LOCKED, the length is one the kind permits, and where a packet is current it has this
kind and length and its bytes are the body's first; the receiver then stays LOCKED with no current packet, its lane advanced by the
bytes that arrived. That a command brings a packet's remaining bytes, and its header with them where none is current, is the model's
choice (log 15). -/
def Obligations.DirectivePacketIsQueuedOrDropped : Prop :=
  (∀ (s : State) (body : List Byte), s.power = .running → canComplete .dirKind body s = true →
    (s.dirs.queue.length < 8 → exec (.dirPacket body) s = .next (arbitrate
      { receivePacket body s with dirs := { s.dirs with queue := s.dirs.queue ++ [body] } })) ∧
    (8 ≤ s.dirs.queue.length → exec (.dirPacket body) s = .next (arbitrate
      (let n := min 65535 (s.counters.directivesDropped + 1)
       raise .directiveOverrun [natWord (byteAt body 0).toNat, natWord (byteAt body 1).toNat, natWord n]
         { receivePacket body s with counters := { s.counters with directivesDropped := n } })))) ∧
  ∀ (s : State) (kind : PacketKind) (body : List Byte),
    kind = .openKind ∨ kind = .lineKind ∨ kind = .shutKind ∨ kind = .dirKind →
    let n := body.length
    let permitted := (kind = .openKind → n = 12) ∧ (kind = .lineKind → 2 ≤ n ∧ n ≤ 3842) ∧ (kind = .shutKind → n = 2) ∧
      (kind = .dirKind → 2 ≤ n ∧ n ≤ 258)
    let whole := fun arrived : Nat => { s with inlet := ⟨.locked none, (s.inlet.lane + arrived) % 2⟩ }
    (canComplete kind body s = true ↔ permitted ∧ (s.inlet.framing = .locked none ∨
      ∃ received, s.inlet.framing = .locked (some ⟨kind, n, received⟩) ∧ received <+: body)) ∧
    (s.inlet.framing = .locked none → receivePacket body s = whole (6 + n)) ∧
    ∀ p, s.inlet.framing = .locked (some p) → receivePacket body s = whole (n - p.received.length)

/-- R13, R14: an asserted hold line starts nothing. At its deassertion with the lane idle the first claimant that offers, forward
queue, note queue, tile emitter, is started; the start of a COMPLETE TILEEND counts in tiles emitted (R161). R4, R19, R158 to R161: the
bytes of a packet, of a reply, of an event, of a TILEHEAD, of a TILEROW and of a TILEEND. -/
def Obligations.HoldReleaseStartsTheFirstClaimant : Prop :=
  (∀ s : State, exec (.outletHold true) s = .next { s with holdLine := true } ∧
    (s.power ≠ .running ∨ s.outlet.sending ≠ none → exec (.outletHold false) s = .next { s with holdLine := false }) ∧
    (s.power = .running → s.outlet.sending = none →
      (∀ p q, s.forward = p :: q → exec (.outletHold false) s = .next
        { s with holdLine := false, outlet := { s.outlet with sending := some ⟨.forward, p, false⟩ } }) ∧
      (s.forward = [] → ∀ n q, s.notes.queue = n :: q → exec (.outletHold false) s = .next
        { s with holdLine := false, outlet := { s.outlet with sending := some ⟨.note, notePacket n, false⟩ } }) ∧
      (s.forward = [] → s.notes.queue = [] →
        (s.ring.run = none → exec (.outletHold false) s = .next { s with holdLine := false }) ∧
        ∀ r, s.ring.run = some r → exec (.outletHold false) s = .next
          { s with
            holdLine := false
            outlet := { s.outlet with sending := some ⟨.tile, runPacket s r, false⟩ }
            sweep := { s.sweep with
              tilesEmitted := s.sweep.tilesEmitted + if r.next = .tileEnd ∧ r.status = .complete then 1 else 0 } }))) ∧
  (∀ p : Packet, let high : Byte := BitVec.ofNat 8 (p.body.length / 256)
    let low : Byte := BitVec.ofNat 8 p.body.length
    packetBytes p = [0xC3, 0x5D, kindCode p.kind, high, low, ~~~(kindCode p.kind + high + low)] ++ p.body) ∧
  kindCode .noteKind = 0x30 ∧ kindCode .tileHead = 0x40 ∧ kindCode .tileRow = 0x41 ∧ kindCode .tileEnd = 0x42 ∧
  let two := fun n : Nat => ([BitVec.ofNat 8 (n / 256), BitVec.ofNat 8 n] : List Byte)
  (∀ payload : List Word,
    let words := payload.flatMap fun w => two (w.toNat / 65536) ++ two w.toNat
    (∀ (tag code : Byte) (r : ResultCode), notePacket (.reply tag code r payload) = ⟨.noteKind, [0x01, tag, code,
      BitVec.ofNat 8 ([ResultCode.done, .busy, .wrongState, .unknown, .format, .range, .notPermitted, .isProtected, .notBlank,
        .notWritten, .worn, .invalidTable, .sequence, .repeated, .mismatch, .noTables].idxOf r)] ++ words⟩) ∧
    ∀ (k : EventKind) (n : Nat), notePacket (.event k n payload) = ⟨.noteKind, [0x02,
      BitVec.ofNat 8 (1 + [EventKind.sweepState, .frameOutcome, .creditStarved, .linkSync, .directiveOverrun,
        .passthroughDrop].idxOf k), BitVec.ofNat 8 n] ++ words⟩) ∧
  ∀ (s : State) (r : Run),
    let mirrored := decide (s.sweep.params.direction = .leftward)
    (r.next = .head → runPacket s r = ⟨.tileHead, [BitVec.ofNat 8 r.sweepId, BitVec.ofNat 8 r.tile, BitVec.ofNat 8 r.columns,
      if mirrored then 1 else 0] ++ two s.sweep.hc ++ two r.top ++ two r.bottom⟩) ∧
    (r.next = .tileEnd → runPacket s r = ⟨.tileEnd, [BitVec.ofNat 8 r.sweepId, BitVec.ofNat 8 r.tile,
      if r.status = .complete then 0 else 1] ++ two r.rowsSent⟩) ∧
    ∀ (n : Nat) (t : Tile), r.next = .row n → (s.ring.tiles.find? fun t => decide (t.index = r.tile)) = some t →
      r.columns ≤ t.luma.length → (r.columns + 1) / 2 ≤ t.chroma.length →
      let sent := fun count j : Nat => if mirrored then count - 1 - j else j
      runPacket s r = ⟨.tileRow, two n ++
        ((List.range r.columns).map fun j => (t.luma.getD (sent r.columns j) []).getD n 0) ++
        if n % 2 = 0 then (List.range ((r.columns + 1) / 2)).flatMap fun j =>
          let p := (t.chroma.getD (sent ((r.columns + 1) / 2) j) []).getD (n / 2) (128, 128)
          [p.1, p.2]
        else []⟩

/-- R11, R15, R156, R171: the completion of the packet on the outlet is told to its claimant: the forward queue loses its head;
the note queue its oldest note, the slot freed of a full queue going to the oldest waiting reply, or else to the first unmasked
pending kind; where no reply waits and no unmasked kind is pending, as in a settled unit with fewer than 16 notes, nothing fills it.
The run goes on to its next packet. A note whose queue was emptied meanwhile removes nothing. -/
def Obligations.CompletedPacketIsReportedToItsClaimant : Prop :=
  ∀ (s : State) (p : Packet) (orphan : Bool), s.power = .running →
    let idle : Outlet := ⟨none, (s.outlet.lane + (6 + p.body.length)) % 4⟩
    (s.outlet.sending = some ⟨.forward, p, false⟩ → exec .outletPacketComplete s = .next (arbitrate
      { s with outlet := idle, forward := s.forward.tail })) ∧
    (s.outlet.sending = some ⟨.note, p, true⟩ → exec .outletPacketComplete s = .next (arbitrate { s with outlet := idle })) ∧
    (s.outlet.sending = some ⟨.note, p, false⟩ → s.notes.queue.length = 16 →
      (∀ r rest, s.notes.replies = r :: rest → ∃ t, exec .outletPacketComplete s = .next t ∧
        t.notes = { s.notes with queue := s.notes.queue.tail ++ [r.note], replies := rest }) ∧
      (∀ pre k post e, s.notes.replies = [] → eventKinds = pre ++ k :: post →
        (∀ j ∈ pre, s.notes.unmasked.get j = true → s.notes.pending.get j = none) → s.notes.unmasked.get k = true →
        s.notes.pending.get k = some e → ∃ t, exec .outletPacketComplete s = .next t ∧
          t.notes = { s.notes with
            queue := s.notes.queue.tail ++ [.event k e.superseded e.payload]
            pending := s.notes.pending.set k none })) ∧
    (s.outlet.sending = some ⟨.note, p, false⟩ → (s.notes.settled ∧ s.notes.queue.length < 16) ∨
        (s.notes.replies = [] ∧ ∀ k, s.notes.unmasked.get k = true → s.notes.pending.get k = none) →
      exec .outletPacketComplete s = .next (arbitrate
        { s with outlet := idle, notes := { s.notes with queue := s.notes.queue.tail } })) ∧
    ∀ r, s.outlet.sending = some ⟨.tile, p, orphan⟩ → s.ring.run = some r →
      (r.next = .head → exec .outletPacketComplete s = .next (arbitrate { s with
        outlet := idle
        ring := { s.ring with run := some { r with next := if r.status = .abandoned then .tileEnd else .row 0 } } })) ∧
      ∀ n, r.next = .row n → exec .outletPacketComplete s = .next (arbitrate { s with
        outlet := idle
        ring := { s.ring with run := some { r with
          rowsSent := r.rowsSent + 1
          next := if r.status = .abandoned ∨ s.sweep.hc ≤ n + 1 then .tileEnd else .row (n + 1) } } })

/-- R36, R161: the completion of a TILEEND frees its tile's place, counts in TILES_EMITTED and idles the emitter; in DRAINING it
ends the sweep when nothing is registering, queued for compositing or resident. That OUTLET_PACKET_COMPLETE and TILEEND_COMPLETE are
two names of this one completion, and answer the same, is the model's choice (log 20). -/
def Obligations.TileEndFreesItsTileAndMayEndTheDrain : Prop :=
  ∀ (s : State) (p : Packet) (orphan : Bool) (r : Run), s.power = .running →
    s.outlet.sending = some ⟨.tile, p, orphan⟩ → s.ring.run = some r → r.next = .tileEnd →
    let u : State := { s with
      outlet := ⟨none, (s.outlet.lane + (6 + p.body.length)) % 4⟩
      ring := { s.ring with
        tiles := s.ring.tiles.filter fun t => !decide (t.state = .emitting ∧ t.index = r.tile)
        run := none }
      counters := { s.counters with tilesEmitted := min 65535 (s.counters.tilesEmitted + 1) } }
    exec .outletPacketComplete s = exec .tileendComplete s ∧
    (s.sweep.state = .draining ∧ (∀ i, slotState s i ≠ some .registering) ∧ s.comp.queue = [] ∧ s.comp.writing = false ∧
        u.ring.tiles = [] →
      exec .tileendComplete s = .next (arbitrate (raise .sweepState
        (sweepStateWords { u with sweep := { s.sweep with state := .ended } })
        { u with sweep := { s.sweep with state := .ended } }))) ∧
    (¬(s.sweep.state = .draining ∧ (∀ i, slotState s i ≠ some .registering) ∧ s.comp.queue = [] ∧
        s.comp.writing = false ∧ u.ring.tiles = []) →
      exec .tileendComplete s = .next (arbitrate u))

/-- R153, R157, R158, R165: with credits and a sealed tile the idle emitter takes the head tile's run and one credit. Its tile top and
bottom are the least top and greatest bottom of the tile's written columns, Hc - 1 and 0 with none. A take that leaves no credit and a
tile waiting begins a starvation episode, any other ends the one in progress. Last clause: a take and a SWEEP_ABORT that arrive
together, in either order, leave no run, no tile, no packet of one, and the credits as they were. That a take which offers both a
TILEHEAD and CREDIT_STARVED offers the note first is the model's choice (log 8), and so is what arriving together is: the abort waits
in the queue directly behind the take (log 27). -/
def Obligations.RunTakesTheHeadTileAndOneCredit : Prop :=
  (∀ (s : State) (t : Nat) (rest : List Nat) (tile : Tile), s.power = .running → s.ring.run = none → 0 < s.ring.credits →
    s.ring.sealedQueue = t :: rest → (s.ring.tiles.find? fun u => decide (u.index = t)) = some tile →
    ∃ top bottom : Nat,
      ((∃ c, some c ∈ tile.coverage) → (∀ c, some c ∈ tile.coverage → top ≤ c.top ∧ c.bottom ≤ bottom) ∧
        (∃ c, some c ∈ tile.coverage ∧ c.top = top) ∧ ∃ c, some c ∈ tile.coverage ∧ c.bottom = bottom) ∧
      ((∀ c ∈ tile.coverage, c = none) → top = s.sweep.hc - 1 ∧ bottom = 0) ∧
      let starving := decide (s.ring.credits = 1 ∧ rest ≠ [])
      let u : State := { s with ring := { s.ring with
        tiles := s.ring.tiles.map fun v => if v.index = t then { v with state := .emitting } else v
        sealedQueue := rest
        credits := s.ring.credits - 1
        starved := starving
        run := some ⟨s.sweep.id, t, (min 64 (s.placement.e - 64 * t + 1)).toNat, top, bottom, .complete, 0, .head⟩ } }
      let v := if starving then raise .creditStarved
        [natWord s.sweep.id, natWord (rest.headD 0), natWord rest.length, natWord s.ring.tiles.length] u else u
      (¬s.abortBehind → exec .tileRunTake s = .next (arbitrate v)) ∧
      (s.abortBehind → exec .tileRunTake s = .next (if v.forward = [] ∧ v.notes.queue = [] then v else arbitrate v))) ∧
  ∀ (s : State) (body : List Byte) (rest : List (List Byte)) (more : List Instr), s.offers body rest → dirCode body = 0x12 →
    dirParams body = some [] → s.sweep.state ≠ .idle → s.sweep.state ≠ .ended → s.ring.run = none → 0 < s.ring.credits →
    s.ring.credits ≤ 255 → s.ring.sealedQueue ≠ [] → tileOnOutlet s = false →
    s.pending = .tileRunTake :: .sweepAbort :: more ∨ s.pending = .sweepAbort :: .tileRunTake :: more →
    ∃ t u, step s = .next t ∧ step t = .next u ∧ u.ring.run = none ∧ u.ring.tiles = [] ∧ u.ring.sealedQueue = [] ∧
      u.ring.credits = s.ring.credits ∧ tileOnOutlet u = false ∧ u.sweep.state = .ended ∧ u.pending = more

/-! ### Notes and replies -/

/-- R167, R168, R171, R172: where a raised event goes; where the reply of a taken directive, and of a completed profile operation,
goes when a slot is free and when none is. -/
def Obligations.EventsAndRepliesFindTheirPlace : Prop :=
  (∀ (k : EventKind) (payload : List Word) (s : State),
    (∀ p, s.notes.pending.get k = some p → raise k payload s = { s with notes := { s.notes with
      pending := s.notes.pending.set k (some ⟨payload, min 255 (p.superseded + 1)⟩) } }) ∧
    (s.notes.pending.get k = none → s.notes.unmasked.get k = true → s.notes.queue.length < 16 →
      raise k payload s = { s with notes := { s.notes with queue := s.notes.queue ++ [.event k 0 payload] } }) ∧
    (s.notes.pending.get k = none → s.notes.unmasked.get k = false ∨ 16 ≤ s.notes.queue.length →
      raise k payload s = { s with notes := { s.notes with
        pending := s.notes.pending.set k (some ⟨payload, 0⟩) } })) ∧
  ∀ (s : State) (body : List Byte) (code : Byte) (res : ResultCode) (payload : List Word), s.notes.settled →
    (s.notes.queue.length < 16 →
      replyTo body res payload s = { s with
        notes := { s.notes with queue := s.notes.queue ++ [.reply (byteAt body 1) (byteAt body 0) res payload] }
        dirs := { s.dirs with replyWaiting := false } } ∧
      storeReply code res payload s = { s with
        notes := { s.notes with queue := s.notes.queue ++ [.reply s.store.tag code res payload] }
        store := { s.store with busy := none } }) ∧
    (s.notes.queue.length = 16 →
      replyTo body res payload s = { s with
        notes := { s.notes with
          replies := s.notes.replies ++ [⟨.directiveUnit, .reply (byteAt body 1) (byteAt body 0) res payload⟩] }
        dirs := { s.dirs with replyWaiting := true } } ∧
      storeReply code res payload s = { s with
        notes := { s.notes with replies := s.notes.replies ++ [⟨.profileStore, .reply s.store.tag code res payload⟩] } })

/-! ### Directives of chapter 9 -/

/-- R174: STATUS in every state: the twenty-eight words, the end summary in ENDED only. -/
def Obligations.StatusReportsThePartAsItStands : Prop :=
  ∀ (s : State) (body : List Byte) (rest : List (List Byte)), s.offers body rest → dirCode body = 0x01 →
    dirParams body = some [] →
    let crop := s.ring.crop.getD ⟨0, 0⟩
    exec .status s = .next (arbitrate (replyTo body .done
      ([natWord (sweepStateCode s.sweep.state), natWord (endCauseCode s.sweep.cause), natWord s.sweep.id,
        natWord s.sweep.coast, natWord s.ring.credits, natWord s.ring.tiles.length, natWord s.ring.sealedQueue.length,
        natWord (s.ring.tiles.filter fun t => decide (t.state = .emitting)).length,
        natWord (slotCode (s.capture.slots.get 0)), natWord (slotCode (s.capture.slots.get 1)),
        natWord (slotCode (s.capture.slots.get 2)), natWord s.reg.anchors.length, intWord s.placement.e,
        natWord (s.tables.columnMap.isSome.toNat + 2 * s.tables.feather.isSome.toNat + 4 * s.tables.gain.isSome.toNat),
        natWord ((s.tables.columnMap.map (·.wFor)).getD 0), natWord ((s.tables.columnMap.map (·.hFor)).getD 0),
        natWord ((s.tables.columnMap.map (·.k)).getD 0), natWord ((s.tables.feather.map (·.count)).getD 0),
        natWord s.store.busy.isSome.toNat, natWord (if s.mode = .service then 1 else 0),
        natWord (if inHunt s then 0 else 1), natWord s.sweep.hc] ++
        if s.sweep.state = .ended then
          [natWord s.sweep.framesComposited, natWord s.sweep.tilesEmitted, intWord (s.placement.e + 1),
            intWord s.placement.e, natWord crop.top, natWord (crop.bottom + 65536 * s.ring.crop.isSome.toNat)]
        else [0, 0, 0, 0, 0, 0]) (s.taken rest)))

/-- R173: an enable set above 63 is refused; any other sets the six masks, and the reply, which stands ahead of the pending notes
it unmasks, gives the set and the kinds pending. -/
def Obligations.EventMaskSetsTheSixMasks : Prop :=
  ∀ (s : State) (body : List Byte) (rest : List (List Byte)) (enable : Nat), s.offers body rest → dirCode body = 0x02 →
    dirParams body = some [enable] →
    (63 < enable → exec .eventMask s = .next (arbitrate (replyTo body .range [] (s.taken rest)))) ∧
    (enable ≤ 63 → ∃ masks : PerKind Bool,
      (∀ k, masks.get k = decide (enable / kindValue k % 2 = 1)) ∧
      exec .eventMask s = .next (arbitrate (replyTo body .done [natWord enable, natWord (pendingSet s.notes.pending)]
        { s.taken rest with notes := { s.notes with unmasked := masks } })) ∧
      (s.notes.queue.length < 16 → s.notes.replies = [] → ∃ t more, exec .eventMask s = .next t ∧
        t.notes.queue = s.notes.queue ++
          .reply (byteAt body 1) (byteAt body 0) .done [natWord enable, natWord (pendingSet s.notes.pending)] :: more))

/-- R175: READ and ZERO give the eight counters as they stand; ZERO sets them to 0 afterwards; any other option is refused. -/
def Obligations.CountersAreReadAndZeroed : Prop :=
  ∀ (s : State) (body : List Byte) (rest : List (List Byte)) (option : Nat), s.offers body rest → dirCode body = 0x03 →
    dirParams body = some [option] →
    let c := s.counters
    let words := [natWord c.opensSeen, natWord c.framesComposited, natWord c.framesNotComposited, natWord c.tilesEmitted,
      natWord c.syncLosses, natWord c.directivesDropped, natWord c.passthroughDrops, natWord c.linesRepaired]
    (option = 0 → exec .counters s = .next (arbitrate (replyTo body .done words (s.taken rest)))) ∧
    (option = 1 → exec .counters s = .next (arbitrate (replyTo body .done words
      { s.taken rest with counters := ⟨0, 0, 0, 0, 0, 0, 0, 0⟩ }))) ∧
    (1 < option → exec .counters s = .next (arbitrate (replyTo body .range [] (s.taken rest))))

/-- R167 and R18: the first two checks of a take: an unlisted code is answered UNKNOWN, an odd number of parameter bytes or a wrong
parameter count FORMAT; nothing but the reply comes of it. A unit that is REPLY_WAITING takes nothing:
that the command then leaves the state is the model's choice (log 1). -/
def Obligations.UnknownCodesAndWrongCountsAreRefused : Prop :=
  (∀ (s : State) (body : List Byte) (rest : List (List Byte)), s.offers body rest →
    (knownDirective (dirCode body) = false →
      exec .unknownDirective s = .next (arbitrate (replyTo body .unknown [] (s.taken rest)))) ∧
    (∀ d ∈ fixedDirectives, dirCode body = d.2.1 → (∀ ps, dirParams body = some ps → ps.length ≠ d.2.2) →
      exec d.1 s = .next (arbitrate (replyTo body .format [] (s.taken rest)))) ∧
    (dirCode body = 0x20 → (∀ ps, dirParams body = some ps → ps.length < 3) →
      exec .tablePage s = .next (arbitrate (replyTo body .format [] (s.taken rest))))) ∧
  ∀ s : State, s.dirs.replyWaiting = true ∨ s.dirs.queue = [] →
    exec .unknownDirective s = .next s ∧ exec .tablePage s = .next s ∧ ∀ d ∈ fixedDirectives, exec d.1 s = .next s

/-- R176, R177: RESET_ENGINE puts the sweep side at its starting state with the sweep id kept, keeps the lanes, the counters, the
working tables, MODE and the directives behind it, tears the slot of an operation in progress, and leaves its own reply as the only
note, its second word the code of a profile reply that was waiting, or 0. R15, R170: a packet on the outlet stays on it, and a note
there has lost its slot. A run in progress is settled as R164 states (see SweepAbortThrowsAwayWhatHasNotLeft). -/
def Obligations.ResetEngineRestartsTheSweepSide : Prop :=
  ∀ (s : State) (body : List Byte) (rest : List (List Byte)), s.offers body rest → dirCode body = 0x04 →
    dirParams body = some [] → ∃ t, exec .resetEngine s = .next t ∧
      t.sweep = ⟨.idle, .none, s.sweep.id, ⟨.rightward, 0, 0, 0, 0, 0, 0, 0, 0, 0, 0, 0, 0⟩, 0, 0, 0, 0⟩ ∧
      t.placement = ⟨-1, 0, ⟨0, 0⟩, 0, ⟨0, 0⟩⟩ ∧
      t.capture = { s.capture with slots := ⟨none, none, none⟩, order := [] } ∧
      t.reg = ⟨.waiting, none, [], ⟨0, 0, 0⟩, ⟨0, 0⟩, List.replicate 512 0, none⟩ ∧ t.comp = ⟨false, []⟩ ∧
      t.ring = ⟨[], [], none, 0, false, (settleRun s).ring.run⟩ ∧
      t.tables = { s.tables with assembly := none } ∧ t.counters = s.counters ∧ t.mode = s.mode ∧ t.inlet = s.inlet ∧
      t.forward = s.forward ∧ t.dirs = ⟨rest, false⟩ ∧
      t.store.busy = none ∧ t.store.marker = none ∧ t.store.isProtected = s.store.isProtected ∧
      t.store.defaultSlot = s.store.defaultSlot ∧
      (∀ i, (∀ m, s.store.marker = some m → m.slot ≠ i) → t.store.slots.get i = s.store.slots.get i) ∧
      (∀ m, s.store.marker = some m → (t.store.slots.get m.slot).state = .torn ∧
        (t.store.slots.get m.slot).wear = (s.store.slots.get m.slot).wear) ∧
      ∃ discarded : Word, ((∀ r ∈ s.notes.replies, r.source ≠ .profileStore) → discarded = 0) ∧
        (∀ pre tag code res payload post, s.notes.replies = pre ++ ⟨.profileStore, .reply tag code res payload⟩ :: post →
          (∀ r ∈ pre, r.source ≠ .profileStore) → discarded = natWord code.toNat) ∧
        let reply : Note := .reply (byteAt body 1) 0x04 .done
          [natWord ((s.store.marker.map fun m => m.slot.val).getD 4), discarded, natWord (pendingSet s.notes.pending),
            natWord s.notes.queue.length]
        t.notes = ⟨[reply], [], ⟨false, false, false, false, false, false⟩, ⟨none, none, none, none, none, none⟩⟩ ∧
        (∀ p, s.outlet.sending = some p → t.outlet =
          { s.outlet with sending := some (if p.claimant = .note then { p with orphan := true } else p) }) ∧
        (s.outlet.sending = none → (s.holdLine = true → t.outlet = s.outlet) ∧
          (s.holdLine = false → (∀ p q, s.forward = p :: q → t.outlet = { s.outlet with sending := some ⟨.forward, p, false⟩ }) ∧
            (s.forward = [] → t.outlet = { s.outlet with sending := some ⟨.note, notePacket reply, false⟩ })))

/-! ### The sweep -/

/-- R23 to R26: SWEEP_ARM's checks in order (a refused one changes nothing but the reply); an accepted one records its parameters
brought into range, sets the sweep up and replies with the values in effect. -/
def Obligations.SweepArmChecksThenRecordsItsParameters : Prop :=
  ∀ (s : State) (body : List Byte) (rest : List (List Byte)), s.offers body rest → dirCode body = 0x10 →
    ((∀ ps, dirParams body = some ps → ps.length ≠ 13) →
      exec .sweepArm s = .next (arbitrate (replyTo body .format [] (s.taken rest)))) ∧
    ∀ ps, dirParams body = some ps → ps.length = 13 →
    let v := fun n => ps.getD n 0
    (s.sweep.state ≠ .idle → exec .sweepArm s = .next (arbitrate (replyTo body .wrongState [] (s.taken rest)))) ∧
    (s.sweep.state = .idle → s.tables.columnMap = none ∨ s.tables.feather = none ∨ s.tables.gain = none →
      exec .sweepArm s = .next (arbitrate (replyTo body .noTables [] (s.taken rest)))) ∧
    (s.sweep.state = .idle → s.tables.columnMap ≠ none → s.tables.feather ≠ none → s.tables.gain ≠ none → 1 < v 0 →
      exec .sweepArm s = .next (arbitrate (replyTo body .range [] (s.taken rest)))) ∧
    ∀ m, s.sweep.state = .idle → s.tables.columnMap = some m → s.tables.feather ≠ none → s.tables.gain ≠ none → v 0 ≤ 1 →
      let least := max 1024 ((m.k + 63) / 64 * 64)
      let p : SweepParams :=
        { direction := if v 0 = 0 then .rightward else .leftward
          margin := min 256 (v 1) / 4 * 4
          wmax := max least (min 16384 (v 2)) / 64 * 64
          tau := max 4 (min 63 (v 3))
          dmax := min 12 (v 4)
          early := min (min 12 (v 4)) (v 5)
          rx := max 16 (min 252 (v 6)) / 4 * 4
          ry := max 16 (min 124 (v 7)) / 4 * 4
          minSupport := max 3 (min 32 (v 8))
          aMin := min 1024 (v 9)
          tRev := min 256 (v 10)
          coastLimit := max 1 (min 30 (v 11))
          credits := min 255 (v 12) }
      let recorded := [v 0, p.margin, p.wmax, p.tau, p.dmax, p.early, p.rx, p.ry, p.minSupport, p.aMin, p.tRev,
        p.coastLimit, p.credits]
      let id := if 255 ≤ s.sweep.id then 1 else s.sweep.id + 1
      let hc := m.hFor + 2 * p.margin
      exec .sweepArm s = .next (arbitrate (replyTo body .done
        ([natWord id] ++ recorded.map natWord ++ [natWord hc, natWord p.credits,
          natWord ((List.range 13).filter fun n => decide (v n ≠ recorded.getD n 0)).length])
        (changeSweep .armed .none { s.taken rest with
          sweep := ⟨s.sweep.state, s.sweep.cause, id, p, hc, 0, 0, 0⟩
          placement := ⟨-1, s.placement.e0, ⟨0, 0⟩, 0, ⟨0, 0⟩⟩
          reg := { s.reg with pred := ⟨0, 0⟩, votes := List.replicate 512 0 }
          ring := { s.ring with crop := none, credits := p.credits, starved := false } })))

/-- R33, R34, R36, R39, R58: SWEEP_END frees the FILLING and READY slots in capture order, each frame counted and its FRAME_OUTCOME
raised with DISCARDED, and moves ARMED to ENDED and TRACKING or COASTING to DRAINING, leaving work begun as it is; SWEEP_RELEASE clears
an ended sweep; in the other states both are refused. That SWEEP_END's reply carries the state after all its effects is read from R33
and R34 (log 12), and so is the order of the notes of an entry to DRAINING: SWEEP_STATE before the DISCARDED outcomes of that entry, then
the examination, then the drain test (log 9). Last clauses: what discarding the captured frames, an entry to DRAINING and the drain
test do. -/
def Obligations.SweepEndAndReleaseFollowTheSweepState : Prop :=
  (∀ (s : State) (body : List Byte) (rest : List (List Byte)), s.offers body rest → dirCode body = 0x11 → s.captureAgrees →
    (dirParams body ≠ some [] → exec .sweepEnd s = .next (arbitrate (replyTo body .format [] (s.taken rest)))) ∧
    (dirParams body = some [] → s.sweep.state = .idle ∨ s.sweep.state = .draining ∨ s.sweep.state = .ended →
      exec .sweepEnd s = .next (arbitrate (replyTo body .wrongState [] (s.taken rest)))) ∧
    (dirParams body = some [] → capturing s.sweep.state = true →
      let u := if s.sweep.state = .armed then changeSweep .ended .finished (discardCaptured (s.taken rest))
        else enterDraining .finished (discardCaptured (s.taken rest))
      exec .sweepEnd s = .next (arbitrate (replyTo body .done
        [natWord (sweepStateCode u.sweep.state), natWord (endCauseCode u.sweep.cause), natWord u.sweep.id] u)) ∧
      u.sweep.cause = .finished ∧ u.sweep.id = s.sweep.id ∧ u.sweep.params = s.sweep.params ∧
      u.sweep.coast = s.sweep.coast ∧ (s.sweep.state = .armed → u.sweep.state = .ended) ∧
      (s.sweep.state ≠ .armed → u.sweep.state = .draining ∨ u.sweep.state = .ended) ∧
      (∀ i, u.capture.slots.get i = if slotState s i = some .filling ∨ slotState s i = some .ready then none
        else s.capture.slots.get i) ∧
      u.reg = s.reg ∧ u.placement = s.placement ∧ u.comp = s.comp ∧ u.ring.credits = s.ring.credits ∧
      u.ring.run = s.ring.run ∧ u.dirs = (s.taken rest).dirs)) ∧
  (∀ (s : State) (body : List Byte) (rest : List (List Byte)), s.offers body rest → dirCode body = 0x13 →
    (dirParams body ≠ some [] → exec .sweepRelease s = .next (arbitrate (replyTo body .format [] (s.taken rest)))) ∧
    (dirParams body = some [] → s.sweep.state ≠ .ended →
      exec .sweepRelease s = .next (arbitrate (replyTo body .wrongState [] (s.taken rest)))) ∧
    (dirParams body = some [] → s.sweep.state = .ended → exec .sweepRelease s = .next (arbitrate (replyTo body .done
      [natWord 0, natWord 0, natWord s.sweep.id]
      (changeSweep .idle .none { s.taken rest with
        reg := { s.reg with anchors := [], header := ⟨0, 0, 0⟩, pred := ⟨0, 0⟩, votes := List.replicate 512 0 }
        placement := { s.placement with e := -1, deltaLast := ⟨0, 0⟩ }
        ring := { s.ring with crop := none, credits := 0, starved := false }
        sweep := { s.sweep with coast := 0 } }))))) ∧
  (∀ s : State, s.captureAgrees → s.counters.sound →
    let frees := fun f : CapturedFrame => decide (f.state = .filling ∨ f.state = .ready)
    let kept := fun slot : Option CapturedFrame => slot.filter fun f => !frees f
    let freed := (s.capture.order.filterMap s.capture.slots.get).filter frees
    discardCaptured s = freed.foldl
      (fun u f => raise .frameOutcome (outcomeWords (f.outcome .discarded) s.sweep.id s.sweep.coast) u)
      { s with
        capture := { s.capture with
          slots := ⟨kept s.capture.slots.s0, kept s.capture.slots.s1, kept s.capture.slots.s2⟩
          order := s.capture.order.filter fun i => (kept (s.capture.slots.get i)).isSome }
        counters := { s.counters with
          framesNotComposited := min 65535 (s.counters.framesNotComposited + freed.length) } }) ∧
  ∀ (s : State) (cause : EndCause),
    enterDraining cause s = testDrain (examineTiles (discardCaptured (changeSweep .draining cause s))) ∧
    let drained := s.sweep.state = .draining ∧ (∀ i, slotState s i ≠ some .registering) ∧ s.comp.queue = [] ∧
      s.comp.writing = false ∧ s.ring.tiles = []
    (drained → testDrain s = changeSweep .ended s.sweep.cause s) ∧ (¬drained → testDrain s = s)

/-- R21, R37, R40, R58, R142, R164: SWEEP_ABORT frees every slot, each frame without an outcome counted as not composited and its
FRAME_OUTCOME raised with DISCARDED, in capture order, empties the composite queue and the ring, abandons registration, settles the run
by how far it has reached, and ends the sweep ABORTED, with SWEEP_STATE raised last; in IDLE and ENDED it is refused. -/
def Obligations.SweepAbortThrowsAwayWhatHasNotLeft : Prop :=
  ∀ (s : State) (body : List Byte) (rest : List (List Byte)), s.offers body rest → dirCode body = 0x12 →
    s.captureAgrees → s.counters.sound →
    (dirParams body ≠ some [] → exec .sweepAbort s = .next (arbitrate (replyTo body .format [] (s.taken rest)))) ∧
    (dirParams body = some [] → s.sweep.state = .idle ∨ s.sweep.state = .ended →
      exec .sweepAbort s = .next (arbitrate (replyTo body .wrongState [] (s.taken rest)))) ∧
    (dirParams body = some [] → s.sweep.state ≠ .idle → s.sweep.state ≠ .ended → ∃ u,
      exec .sweepAbort s = .next (arbitrate (replyTo body .done [natWord 5, natWord 8, natWord s.sweep.id] u)) ∧
      u.sweep = { s.sweep with state := .ended, cause := .aborted } ∧
      u.capture = { s.capture with slots := ⟨none, none, none⟩, order := [] } ∧ u.comp = ⟨false, []⟩ ∧
      u.reg = ⟨.waiting, none, s.reg.anchors.map fun a => { a with claim := none }, s.reg.header, ⟨0, 0⟩,
        List.replicate 512 0, none⟩ ∧
      u.placement = s.placement ∧ u.ring.tiles = [] ∧ u.ring.sealedQueue = [] ∧ u.ring.starved = false ∧
      u.ring.crop = s.ring.crop ∧
      u.counters = { s.counters with framesNotComposited := min 65535 (s.counters.framesNotComposited +
        (slotNumbers.filter fun i => decide (slotState s i ≠ none ∧ slotState s i ≠ some .placed)).length) } ∧
      (let discarded := (s.capture.order.filterMap s.capture.slots.get).filter fun f => decide (f.state ≠ .placed)
       let crop := s.ring.crop.getD ⟨0, 0⟩
       u.notes = (raise .sweepState
        [natWord 5, natWord 8, natWord s.sweep.id, natWord s.sweep.coast, natWord s.sweep.framesComposited,
          natWord s.sweep.tilesEmitted, intWord (s.placement.e + 1), intWord s.placement.e, natWord crop.top,
          natWord (crop.bottom + 65536 * s.ring.crop.isSome.toNat)]
        (discarded.foldl
          (fun v f => raise .frameOutcome (outcomeWords (f.outcome .discarded) s.sweep.id s.sweep.coast) v) s)).notes) ∧
      (s.ring.run = none → u.ring.run = none ∧ u.ring.credits = s.ring.credits) ∧
      ∀ r, s.ring.run = some r →
        (r.next = .head → tileOnOutlet s = false → u.ring.run = none ∧ u.ring.credits = min 255 (s.ring.credits + 1)) ∧
        (r.next = .head → tileOnOutlet s = true →
          u.ring.run = some { r with status := .abandoned } ∧ u.ring.credits = s.ring.credits) ∧
        (∀ n, r.next = .row n → tileOnOutlet s = true →
          u.ring.run = some { r with status := .abandoned } ∧ u.ring.credits = s.ring.credits) ∧
        (∀ n, r.next = .row n → tileOnOutlet s = false →
          u.ring.run = some { r with status := .abandoned, next := .tileEnd } ∧ u.ring.credits = s.ring.credits) ∧
        (r.next = .tileEnd → tileOnOutlet s = false →
          u.ring.run = some { r with status := .abandoned } ∧ u.ring.credits = s.ring.credits) ∧
        (r.next = .tileEnd → tileOnOutlet s = true → u.ring.run = some r ∧ u.ring.credits = s.ring.credits))

/-- R155: in every sweep state GRANT n adds n to the credits, a sum above 255 left at 255, and replies with the credits after;
a parameter count other than 1 is answered FORMAT. The run in progress and everything else stay as they are. -/
def Obligations.GrantAddsCreditsUpTo255 : Prop :=
  ∀ (s : State) (body : List Byte) (rest : List (List Byte)), s.offers body rest → dirCode body = 0x18 →
    (∀ n, dirParams body = some [n] → exec .grant s = .next (arbitrate (replyTo body .done
      [natWord (min 255 (s.ring.credits + n))]
      { s.taken rest with ring := { s.ring with credits := min 255 (s.ring.credits + n) } }))) ∧
    ((∀ n, dirParams body ≠ some [n]) →
      exec .grant s = .next (arbitrate (replyTo body .format [] (s.taken rest))))

/-! ### Tables and profiles -/

/-- R182 to R185: a page that passes the checks opens, extends, closes, ignores or refuses the assembly, and a last page whose
table validates replaces the working table of its id. -/
def Obligations.TablePageBuildsAndReplacesOneTable : Prop :=
  ∀ (s : State) (body : List Byte) (rest : List (List Byte)) (ps : List Nat) (id : TableId), s.offers body rest →
    dirCode body = 0x20 → dirParams body = some ps → 3 ≤ ps.length →
    let answer := fun (r : ResultCode) (ws : List Word) (tables : Tables) =>
      Host.Outcome.next (arbitrate (replyTo body r ws { s.taken rest with tables := tables }))
    let t := s.tables
    let p := readPage id ps
    let done := fun (a : Assembly) =>
      if headerCount a.header < a.entries.length + p.count then answer .format [] { t with assembly := none }
      else
        let b : Assembly := { a with entries := a.entries ++ p.entries, toggle := p.toggle }
        if p.more then answer .done [natWord b.entries.length, natWord (headerCount b.header)] { t with assembly := some b }
        else if b.entries.length ≠ headerCount b.header then answer .format [] { t with assembly := none }
        else
          match assemblyFault b with
          | some i => answer .invalidTable [natWord (tableIdCode id), intWord i] { t with assembly := none }
          | none => answer .done [natWord (tableIdCode id), natWord (headerCount b.header),
              natWord (tableValidity (installAssembly b t))] (installAssembly b t)
    (s.sweep.state ≠ .idle ∧ s.sweep.state ≠ .ended → exec .tablePage s = answer .wrongState [] t) ∧
    (s.sweep.state = .idle ∨ s.sweep.state = .ended →
      (tableIdOf (ps.getD 0 0) = none ∨ 7 < ps.getD 1 0 → exec .tablePage s = answer .range [] t) ∧
      (tableIdOf (ps.getD 0 0) = some id → ps.getD 1 0 ≤ 7 →
        (pageLimit id < p.count ∨ ps.length ≠ pageLength id p.first p.count → exec .tablePage s = answer .format [] t) ∧
        (p.count ≤ pageLimit id → ps.length = pageLength id p.first p.count →
          (p.more = false → s.store.busy = some .write ∨ s.store.busy = some .verify →
            exec .tablePage s = answer .busy [] t) ∧
          (p.more = true ∨ s.store.busy ≠ some .write ∧ s.store.busy ≠ some .verify →
            (p.first = true → greatestCount id < headerCount p.header →
              exec .tablePage s = answer .invalidTable [natWord (tableIdCode id), intWord (-1)] { t with assembly := none }) ∧
            (p.first = true → headerCount p.header ≤ greatestCount id →
              exec .tablePage s = done ⟨id, p.header, [], p.toggle⟩) ∧
            (p.first = false → t.assembly = none → exec .tablePage s = answer .sequence [] t) ∧
            ∀ a, p.first = false → t.assembly = some a →
              (a.table ≠ id → exec .tablePage s = answer .sequence [] { t with assembly := none }) ∧
              (a.table = id → p.toggle = a.toggle →
                exec .tablePage s = answer .repeated [natWord a.entries.length, natWord (headerCount a.header)] t) ∧
              (a.table = id → p.toggle ≠ a.toggle → exec .tablePage s = done a)))))

/-- R188: PROFILE_ERASE of a slot: WORN at wear 250, otherwise the erase begins with its wear counted, and its completion leaves
the slot BLANK, every word erased. -/
def Obligations.ProfileEraseCountsWearAndBlanksTheSlot : Prop :=
  (∀ (s : State) (body : List Byte) (rest : List (List Byte)) (i : Fin 4), s.offers body rest → dirCode body = 0x31 →
    dirParams body = some [i.val] → s.mode = .service → s.store.busy = none → s.store.isProtected = false →
    let p := s.store.slots.get i
    (250 ≤ p.wear → exec .profileErase s = .next (arbitrate (replyTo body .worn [natWord i.val, natWord p.wear]
      (s.taken rest)))) ∧
    (p.wear < 250 → exec .profileErase s = .next (arbitrate { s.taken rest with store := { s.store with
      slots := s.store.slots.set i { p with wear := p.wear + 1 }
      marker := some ⟨i, .erase⟩, busy := some .erase, tag := byteAt body 1 } }))) ∧
  ∀ (s : State) (i : Fin 4), s.power = .running → s.store.marker = some ⟨i, .erase⟩ →
    exec .profileEraseComplete s = .next (arbitrate (storeReply 0x31 .done
      [natWord i.val, natWord (s.store.slots.get i).wear]
      { s with store := { s.store with
        slots := s.store.slots.set i { s.store.slots.get i with state := .blank, image := [] }, marker := none } }))

/-- R189, R194: PROFILE_WRITE of a BLANK slot with the three tables VALID; at its completion the slot is WRITTEN, and its image,
recalled, gives back exactly the working set, in canonical form and without a difference for VERIFY to find. That the image is
written in one piece at the completion is the model's reading of section 10.3 (log 14, DEDUCED). -/
def Obligations.WrittenProfileRecallsTheWorkingSet : Prop :=
  (∀ (s : State) (body : List Byte) (rest : List (List Byte)) (i : Fin 4), s.offers body rest → dirCode body = 0x32 →
    dirParams body = some [i.val] → s.mode = .service → s.store.busy = none → s.store.isProtected = false →
    ((s.store.slots.get i).state ≠ .blank →
      exec .profileWrite s = .next (arbitrate (replyTo body .notBlank [] (s.taken rest)))) ∧
    ((s.store.slots.get i).state = .blank → tableValidity s.tables ≠ 7 →
      exec .profileWrite s = .next (arbitrate (replyTo body .noTables [] (s.taken rest)))) ∧
    ((s.store.slots.get i).state = .blank → tableValidity s.tables = 7 →
      exec .profileWrite s = .next (arbitrate { s.taken rest with store := { s.store with
        marker := some ⟨i, .write⟩, busy := some .write, tag := byteAt body 1 } }))) ∧
  ∀ (s : State) (i : Fin 4) (m : ColumnMap) (f g : ValueTable), s.power = .running →
    s.store.marker = some ⟨i, .write⟩ → s.tables.columnMap = some m → s.tables.feather = some f →
    s.tables.gain = some g → s.tables.sound → ∃ image : Image,
      exec .profileWriteComplete s = .next (arbitrate (storeReply 0x32 .done [natWord i.val]
        { s with store := { s.store with
          slots := s.store.slots.set i { s.store.slots.get i with state := .written, image := image }, marker := none } })) ∧
      image.wf ∧ recallImage image = .ok (m, f, g) ∧ imageDifference image s.tables = none

/-- R190, R191: PROFILE_VERIFY needs a WRITTEN slot and answers DONE or the first difference from the working set: a table's header,
or its lowest entry whose words differ, the tables in image order, an EMPTY table at its header. PROFILE_BLANK_CHECK takes any slot and
answers DONE for a BLANK one, NOT_BLANK with an offset for the others. -/
def Obligations.VerifyAndBlankCheckReportTheSlot : Prop :=
  (∀ (s : State) (body : List Byte) (rest : List (List Byte)) (i : Fin 4), s.offers body rest →
    dirParams body = some [i.val] → s.store.busy = none →
    (dirCode body = 0x33 → (s.store.slots.get i).state ≠ .written →
      exec .profileVerify s = .next (arbitrate (replyTo body .notWritten [] (s.taken rest)))) ∧
    (dirCode body = 0x33 → (s.store.slots.get i).state = .written →
      exec .profileVerify s = .next (arbitrate { s.taken rest with store := { s.store with
        marker := some ⟨i, .verify⟩, busy := some .verify, tag := byteAt body 1 } })) ∧
    (dirCode body = 0x34 → exec .profileBlankCheck s = .next (arbitrate { s.taken rest with store := { s.store with
        marker := some ⟨i, .blankCheck⟩, busy := some .blankCheck, tag := byteAt body 1 } }))) ∧
  (∀ (s : State) (i : Fin 4), s.power = .running →
    let p := s.store.slots.get i
    let idle : State := { s with store := { s.store with marker := none } }
    (s.store.marker = some ⟨i, .verify⟩ →
      (imageDifference p.image s.tables = none →
        exec .profileVerifyComplete s = .next (arbitrate (storeReply 0x33 .done [natWord i.val] idle))) ∧
      ∀ id n, imageDifference p.image s.tables = some (id, n) →
        exec .profileVerifyComplete s = .next (arbitrate (storeReply 0x33 .mismatch
          [natWord i.val, natWord (tableIdCode id), intWord n] idle))) ∧
    (s.store.marker = some ⟨i, .blankCheck⟩ →
      (p.state = .blank →
        exec .profileBlankCheckComplete s = .next (arbitrate (storeReply 0x34 .done [natWord i.val] idle))) ∧
      (p.state = .written →
        exec .profileBlankCheckComplete s = .next (arbitrate (storeReply 0x34 .notBlank [natWord i.val, natWord 0] idle))) ∧
      (p.state = .torn → p.image.wf → ∃ a, a ≤ 6144 ∧ (∀ b, b < a → imageRead p.image b = 0xFFFF) ∧
        (a < 6144 → imageRead p.image a ≠ 0xFFFF) ∧
        exec .profileBlankCheckComplete s = .next (arbitrate (storeReply 0x34 .notBlank [natWord i.val, natWord a] idle))))) ∧
  ∀ (image : Image) (m : Option ColumnMap) (f g : Option ValueTable) (assembly : Option Assembly),
    let word := fun a : Nat => imageRead image a
    let mapHeader := ∃ x, m = some x ∧ word 0 = natHalf x.wFor ∧ word 1 = natHalf x.hFor ∧ word 2 = natHalf x.yc ∧
      word 3 = natHalf x.k
    let mapEntry := fun n : Nat => ∀ x e, m = some x → x.entries[n]? = some e →
      word (4 + 3 * n) = natHalf e.xs ∧ word (5 + 3 * n) = natHalf e.s ∧ word (6 + 3 * n) = natHalf e.t
    let mapSame := mapHeader ∧ ∀ n, mapEntry n
    let header := fun (base : Nat) (v : Option ValueTable) => ∃ x, v = some x ∧ word base = natHalf x.count
    let value := fun (base : Nat) (v : Option ValueTable) (n : Nat) => ∀ x y, v = some x → x.values[n]? = some y →
      word (base + 1 + n) = natHalf y
    let same := fun (base : Nat) (v : Option ValueTable) => header base v ∧ ∀ n, value base v n
    let b := 4 + 3 * (m.map (·.k)).getD 0
    let c := b + 1 + (f.map (·.count)).getD 0
    let first := fun (id : TableId) (n : Int) => imageDifference image ⟨m, f, g, assembly⟩ = some (id, n)
    (¬mapHeader → first .columnMap (-1)) ∧
    (∀ n, mapHeader → ¬mapEntry n → (∀ k, k < n → mapEntry k) → first .columnMap n) ∧
    (mapSame → ¬header b f → first .feather (-1)) ∧
    (∀ n, mapSame → header b f → ¬value b f n → (∀ k, k < n → value b f k) → first .feather n) ∧
    (mapSame → same b f → ¬header c g → first .gain (-1)) ∧
    (∀ n, mapSame → same b f → header c g → ¬value c g n → (∀ k, k < n → value c g k) → first .gain n) ∧
    (mapSame → same b f → same c g → imageDifference image ⟨m, f, g, assembly⟩ = none)

/-- R192: PROFILE_ERASE_ALL, protected or not: the default becomes NONE and the four slots are erased in order, each stage counted
below 250; the end of slot 3's stage clears the protect flag and replies with the four wear counts. -/
def Obligations.EraseAllErasesTheFourSlotsInOrder : Prop :=
  let count := fun n : Nat => if n < 250 then n + 1 else n
  (∀ (s : State) (body : List Byte) (rest : List (List Byte)), s.offers body rest → dirCode body = 0x36 →
    dirParams body = some [] → s.mode = .service → s.store.busy = none →
    let p := s.store.slots.get 0
    exec .profileEraseAll s = .next (arbitrate { s.taken rest with store := { s.store with
      slots := s.store.slots.set 0 { p with wear := count p.wear }
      defaultSlot := none, marker := some ⟨0, .eraseAll⟩, busy := some .eraseAll, tag := byteAt body 1 } })) ∧
  (∀ (s : State) (i j : Fin 4), s.power = .running → s.store.marker = some ⟨i, .eraseAll⟩ → j.val = i.val + 1 →
    let p := s.store.slots.get i
    let q := s.store.slots.get j
    exec .eraseAllStageEnd s = .next (arbitrate { s with store := { s.store with
      slots := (s.store.slots.set i { p with state := .blank, image := [] }).set j { q with wear := count q.wear }
      marker := some ⟨j, .eraseAll⟩ } })) ∧
  ∀ s : State, s.power = .running → s.store.marker = some ⟨3, .eraseAll⟩ →
    let p := s.store.slots
    exec .eraseAllStageEnd s = .next (arbitrate (storeReply 0x36 .done
      [natWord p.p0.wear, natWord p.p1.wear, natWord p.p2.wear, natWord p.p3.wear]
      { s with store := { s.store with
        slots := p.set 3 { p.p3 with state := .blank, image := [] }, isProtected := false, marker := none } }))

/-- R193: PROFILE_PROTECT sets the flag (a store already protected refuses it), PROFILE_DEFAULT sets the default slot (4 for NONE),
PROFILE_INFO reports states, wear, flag and default; each at once. -/
def Obligations.ProtectDefaultAndInfoCompleteAtOnce : Prop :=
  ∀ (s : State) (body : List Byte) (rest : List (List Byte)), s.offers body rest → s.store.busy = none →
    (dirCode body = 0x35 → dirParams body = some [] → s.mode = .service → s.store.isProtected = false →
      exec .profileProtect s = .next (arbitrate (replyTo body .done []
        { s.taken rest with store := { s.store with isProtected := true } }))) ∧
    (dirCode body = 0x35 → dirParams body = some [] → s.mode = .service → s.store.isProtected = true →
      exec .profileProtect s = .next (arbitrate (replyTo body .isProtected [] (s.taken rest)))) ∧
    (dirCode body = 0x37 → s.mode = .service → s.store.isProtected = false →
      (∀ i : Fin 4, dirParams body = some [i.val] → exec .profileDefault s = .next (arbitrate (replyTo body .done
        [natWord i.val] { s.taken rest with store := { s.store with defaultSlot := some i } }))) ∧
      (dirParams body = some [4] → exec .profileDefault s = .next (arbitrate (replyTo body .done [natWord 4]
        { s.taken rest with store := { s.store with defaultSlot := none } })))) ∧
    (dirCode body = 0x38 → dirParams body = some [] →
      let p := s.store.slots
      exec .profileInfo s = .next (arbitrate (replyTo body .done
        [natWord (profileStateCode p.p0.state), natWord (profileStateCode p.p1.state), natWord (profileStateCode p.p2.state),
          natWord (profileStateCode p.p3.state), natWord p.p0.wear, natWord p.p1.wear, natWord p.p2.wear,
          natWord p.p3.wear, natWord (if s.store.isProtected then 1 else 0),
          natWord ((s.store.defaultSlot.map fun i => i.val).getD 4)] (s.taken rest))))

/-- R194: PROFILE_RECALL of a WRITTEN slot in IDLE or ENDED replaces all three tables when all three validate, and none otherwise;
an open page assembly stays. R180: what validation finds: -1 for a header out of range, else the lowest entry that is out of range or
out of order with the entry before it, else nothing. -/
def Obligations.RecallReplacesAllTablesOrNone : Prop :=
  (∀ (s : State) (body : List Byte) (rest : List (List Byte)) (i : Fin 4), s.offers body rest → dirCode body = 0x30 →
    dirParams body = some [i.val] → s.store.busy = none →
    (s.sweep.state ≠ .idle ∧ s.sweep.state ≠ .ended →
      exec .profileRecall s = .next (arbitrate (replyTo body .wrongState [] (s.taken rest)))) ∧
    (s.sweep.state = .idle ∨ s.sweep.state = .ended →
      ((s.store.slots.get i).state ≠ .written →
        exec .profileRecall s = .next (arbitrate (replyTo body .notWritten [] (s.taken rest)))) ∧
      ((s.store.slots.get i).state = .written →
        (∀ id n, recallImage (s.store.slots.get i).image = .error (id, n) →
          exec .profileRecall s = .next (arbitrate (replyTo body .invalidTable
            [natWord (tableIdCode id), intWord n] (s.taken rest)))) ∧
        ∀ m f g, recallImage (s.store.slots.get i).image = .ok (m, f, g) →
          m.valid ∧ f.validFeather ∧ g.validGain ∧
          exec .profileRecall s = .next (arbitrate (replyTo body .done [natWord i.val, natWord 7]
            { s.taken rest with tables := ⟨some m, some f, some g, s.tables.assembly⟩ }))))) ∧
  (∀ m : ColumnMap,
    let header := 640 ≤ m.wFor ∧ m.wFor ≤ 1920 ∧ m.wFor % 32 = 0 ∧ 360 ≤ m.hFor ∧ m.hFor ≤ 1088 ∧ m.hFor % 8 = 0 ∧
      m.yc ≤ m.hFor - 1 ∧ 64 ≤ m.k ∧ m.k ≤ m.wFor
    let entry := fun (n : Nat) => ∀ e, m.entries[n]? = some e → e.xs ≤ 4 * (m.wFor - 1) ∧
      (∀ p, 1 ≤ n → m.entries[n - 1]? = some p → p.xs < e.xs) ∧ 2048 ≤ e.s ∧ e.s ≤ 4096 ∧ 4096 ≤ e.t ∧ e.t ≤ 8192
    (¬header → columnMapFault m = some (-1)) ∧
    (∀ n : Nat, header → ¬entry n → (∀ k, k < n → entry k) → columnMapFault m = some n) ∧
    (header → (∀ n, entry n) → columnMapFault m = none)) ∧
  ∀ v : ValueTable,
    let weight := fun (n : Nat) => ∀ w, v.values[n]? = some w → w ≤ 256 ∧
      ∀ p, 1 ≤ n → v.values[n - 1]? = some p → p ≤ w
    let factor := fun (n : Nat) => ∀ w, v.values[n]? = some w → w ≤ 65535
    (64 < v.count → featherFault v = some (-1)) ∧
    (∀ n : Nat, v.count ≤ 64 → ¬weight n → (∀ k, k < n → weight k) → featherFault v = some n) ∧
    (v.count ≤ 64 → (∀ n, weight n) → featherFault v = none) ∧
    (v.count ≠ 128 → gainFault v = some (-1)) ∧
    (∀ n : Nat, v.count = 128 → ¬factor n → (∀ k, k < n → factor k) → gainFault v = some n) ∧
    (v.count = 128 → (∀ n, factor n) → gainFault v = none)

/-- R187: the checks every profile directive meets, in their order: parameter count, MODE, busy, protect flag, the slot
parameter's range. A refused directive changes nothing and leaves the store as it was. That MODE goes before the protect flag for a
protected store in NORMAL is R187's order, taken over R193's "in both modes": the model's choice (log 26). -/
def Obligations.ProfileDirectivesAreCheckedInOrder : Prop :=
  ∀ (s : State) (body : List Byte) (rest : List (List Byte)), s.offers body rest →
    ∀ d ∈ profileDirectives, dirCode body = d.2.1 →
      let refused := fun r : ResultCode => exec d.1 s = .next (arbitrate (replyTo body r [] (s.taken rest)))
      ((∀ ps, dirParams body = some ps → ps.length ≠ d.2.2.1) → refused .format) ∧
      ∀ ps, dirParams body = some ps → ps.length = d.2.2.1 →
        let wrongMode := d.2.2.2.1 = true ∧ s.mode = .normal
        let refusedProtected := d.2.2.2.2.1 = true ∧ s.store.isProtected = true
        (wrongMode → refused .notPermitted) ∧
        (¬wrongMode → s.store.busy ≠ none → refused .busy) ∧
        (¬wrongMode → s.store.busy = none → refusedProtected → refused .isProtected) ∧
        (¬wrongMode → s.store.busy = none → ¬refusedProtected → d.2.2.2.2.2 ≠ 0 → d.2.2.2.2.2 ≤ ps.getD 0 0 →
          refused .range)

/-! ### Registration and placement -/

/-- R27, R28, R134: in ARMED the oldest READY frame is the seed: placed at (0, 4M), its tiles opened with one writer each, its entry
queued, its keypoints the anchors; then its outcome SEED is decided, and the width limit taken where E reaches Wmax - 1: the sweep is
TRACKING, or DRAINING. R21, R41, R42: short of the width limit the notes raised are FRAME_OUTCOME with the SEED record, then SWEEP_STATE.
R84, R85, R97, R98, R107: the anchors of a keypoint list: one for each keypoint, projected through the map entry nearest to it, its codes
rotated, in the table's order. -/
def Obligations.SeedIsPlacedAtTheCanvasOrigin : Prop :=
  (∀ (s : State) (i : Fin 3) (f : CapturedFrame) (m : ColumnMap), s.power = .running → s.coherent →
    s.sweep.state = .armed → oldestIn .ready s = some i → s.capture.slots.get i = some f → s.tables.columnMap = some m →
    1 ≤ m.k → 1 ≤ s.sweep.params.wmax →
    let o : Point := ⟨0, 4 * s.sweep.params.margin⟩
    let e : Int := min ((m.k : Int) - 1) ((s.sweep.params.wmax : Int) - 1)
    let last := (e / 64).toNat
    let record : OutcomeRecord := { f.outcome .seed with origin := o }
    let crop := s.ring.crop.getD ⟨0, 0⟩
    exec .registrationTake s = .next (arbitrate (takeWidthLimit (decideOutcome record { s with
      placement := ⟨e, f.record.exposure, o, f.record.roll, ⟨0, 0⟩⟩
      capture := { s.capture with slots := s.capture.slots.set i (some { f with state := .placed }) }
      reg := { s.reg with
        anchors := buildAnchors m o f.record.roll (keypointsOf f.detection)
        header := ⟨f.record.hintX, f.record.hintY, f.record.broken⟩ }
      comp := { s.comp with queue := [⟨i, o, -1, 0, e, 0, 0, last⟩] }
      ring := { s.ring with tiles := (List.range (last + 1)).map fun n => { freshTile s.sweep.hc n with writers := 1 } } }))) ∧
    ∃ t, exec .registrationTake s = .next t ∧
      (e ≠ (s.sweep.params.wmax : Int) - 1 → t.notes = (raise .sweepState
        [natWord 2, natWord 0, natWord s.sweep.id, natWord 0, natWord (min 65535 (s.sweep.framesComposited + 1)),
          natWord s.sweep.tilesEmitted, intWord (e + 1), intWord e, natWord crop.top,
          natWord (crop.bottom + 65536 * s.ring.crop.isSome.toNat)]
        (raise .frameOutcome (outcomeWords record s.sweep.id 0) s)).notes) ∧
      t.placement = ⟨e, f.record.exposure, o, f.record.roll, ⟨0, 0⟩⟩ ∧
      t.sweep.state = (if e = (s.sweep.params.wmax : Int) - 1 then .draining else .tracking) ∧
      t.sweep.cause = (if e = (s.sweep.params.wmax : Int) - 1 then .widthLimit else .none) ∧ t.sweep.coast = 0 ∧
      t.sweep.framesComposited = min 65535 (s.sweep.framesComposited + 1) ∧
      t.counters.framesComposited = min 65535 (s.counters.framesComposited + 1) ∧
      t.capture.slots.get i = some { f with state := .placed } ∧ t.reg.engine = .waiting ∧
      t.reg.anchors = buildAnchors m o f.record.roll (keypointsOf f.detection) ∧
      t.reg.header = ⟨f.record.hintX, f.record.hintY, f.record.broken⟩ ∧
      t.comp.queue = [⟨i, o, -1, 0, e, 0, 0, last⟩] ∧
      t.ring.tiles = (List.range (last + 1)).map fun n => { freshTile s.sweep.hc n with writers := 1 }) ∧
  ∀ (m : ColumnMap) (o : Point) (roll : BitVec 4) (kps : List Keypoint), m.entries ≠ [] →
    (buildAnchors m o roll kps).Pairwise (fun a b => a.ax < b.ax ∨ (a.ax = b.ax ∧ (a.ay < b.ay ∨
      (a.ay = b.ay ∧ a.source ≤ b.source)))) ∧
    ∃ anchors : List Anchor, (buildAnchors m o roll kps).Perm anchors ∧ anchors.length = kps.length ∧
      ∀ (n : Nat) (a : Anchor) (k : Keypoint), anchors[n]? = some a → kps[n]? = some k →
        (∃ (near : Nat) (e : MapEntry), m.entries[near]? = some e ∧
          (∀ j x, m.entries[j]? = some x → ((e.xs : Int) - 4 * k.x).natAbs ≤ ((x.xs : Int) - 4 * k.x).natAbs ∧
            (((e.xs : Int) - 4 * k.x).natAbs = ((x.xs : Int) - 4 * k.x).natAbs → near ≤ j)) ∧
          a.ax = o.x + 4 * near ∧ a.ay = o.y + (4 * m.yc + (4 * ((k.y : Int) - m.yc) * e.s) / 4096)) ∧
        a.polarity = k.polarity ∧ a.source = k.index ∧ a.claim = none ∧
        ∀ b, b < 16 → a.ring.getLsbD b = k.ring.getLsbD ((b + 16 - roll.toNat) % 16) ∧
          a.chord.getLsbD b = k.chord.getLsbD ((b + 16 - roll.toNat) % 16)

/-- R101, R105: in TRACKING and COASTING the oldest READY frame is taken to be registered: its slot REGISTERING, the claims and the
vote grid cleared, and the prediction held: the difference of the hint sums, clamped, where the hint chain is unbroken, else the last
accepted displacement. -/
def Obligations.TakenFrameIsPredictedFromTheHintChain : Prop :=
  ∀ (s : State) (i : Fin 3) (f : CapturedFrame), s.power = .running → s.reg.engine = .waiting →
    s.sweep.state = .tracking ∨ s.sweep.state = .coasting → oldestIn .ready s = some i →
    s.capture.slots.get i = some f →
    let clamp := fun d : Word => max (-32767) (min 32767 d.toInt)
    exec .registrationTake s = .next (arbitrate { s with
      capture := { s.capture with slots := s.capture.slots.set i (some { f with state := .registering }) }
      reg :=
        { engine := .matching, work := some i, anchors := s.reg.anchors.map fun a => { a with claim := none }
          header := s.reg.header, votes := List.replicate 512 0, handover := none
          pred := if f.record.broken = s.reg.header.broken then
              ⟨clamp (f.record.hintX - s.reg.header.hintX), clamp (f.record.hintY - s.reg.header.hintY)⟩
            else s.placement.deltaLast } })

/-- R103, R117, R119: the completion of a registration with the result `m`: FAILED, with the first acceptance test that fails;
REVERSED, DRIFTED or SLOW, by the first classification test that holds; or the handover to placement. An outcome decided here frees
the slot, clears the claims and leaves the anchors, the anchor frame's origin and the last displacement. That the prediction and the
vote grid then stay as the registration left them is the model's choice (log 25). -/
def Obligations.RegistrationFailsClassifiesOrHandsOver : Prop :=
  ∀ (s : State) (i : Fin 3) (f : CapturedFrame), s.power = .running → s.reg.engine = .matching → s.reg.work = some i →
    s.capture.slots.get i = some f →
    let p := s.sweep.params
    let m := registrationOf f s
    let origin : Point := ⟨s.placement.origin.x + m.delta.x, s.placement.origin.y + m.delta.y⟩
    let record : OutcomeRecord := { registrationRecord .failed f s.reg.pred m.count m.support with reason := m.reason }
    let ended := fun r : OutcomeRecord => exec .registrationComplete s = .next (arbitrate (testDrain (decideOutcome r
      (freeSlot i { s with reg := { s.reg with
        engine := .waiting, work := none, anchors := s.reg.anchors.map fun a => { a with claim := none }
        votes := m.votes, handover := none } }))))
    let accepted := fun o : FrameOutcome =>
      ended { record with outcome := o, reason := .none, origin := origin, delta := m.delta }
    (m.reason = if m.count = 0 ∨ m.support < p.minSupport then .tooFew
      else if 2 * m.support < m.count then .noConsensus else .none) ∧
    (m.reason ≠ .none → ended record) ∧
    (m.reason = .none →
      (m.delta.x < -(p.tRev : Int) → accepted .reversed) ∧
      (-(p.tRev : Int) ≤ m.delta.x → 4 * (p.margin + f.record.h / 2) < (origin.y - 4 * p.margin).natAbs → accepted .drifted) ∧
      (-(p.tRev : Int) ≤ m.delta.x → (origin.y - 4 * p.margin).natAbs ≤ 4 * (p.margin + f.record.h / 2) →
        (m.delta.x < p.aMin → accepted .slow) ∧
        (p.aMin ≤ m.delta.x → exec .registrationComplete s = .next (arbitrate (testDrain { s with
          capture := { s.capture with slots := s.capture.slots.set i (some { f with
            detection := .finished m.claims.keypoints (overflowOf f.detection) }) }
          reg := { s.reg with
            engine := .placing, anchors := m.claims.anchors, votes := m.votes
            handover := some ⟨origin, m.delta, m.count, m.support⟩ } })))))

/-- R128 to R131: placement decides GAP, SLOW or FULL by the first test that holds; the slot is freed, the engine is WAITING, and E,
the anchors, the origin, the ring and every writer count stay as they are. That the prediction and the vote grid stay too is the
model's choice (log 25). -/
def Obligations.PlacementRefusesByTheFirstTestThatHolds : Prop :=
  ∀ (s : State) (i : Fin 3) (f : CapturedFrame) (h : Handover) (m : ColumnMap), s.power = .running →
    s.reg.engine = .placing → s.reg.work = some i → s.capture.slots.get i = some f → s.reg.handover = some h →
    s.tables.columnMap = some m →
    let e := s.placement.e
    let cx0 := h.origin.x / 4
    let eNew := min (cx0 + m.k - 1) ((s.sweep.params.wmax : Int) - 1)
    let c1 := e - min ((((s.tables.feather.map (·.values)).getD []).length : Nat) : Int) (e - cx0 + 1) + 1
    let noRoom := (∃ n : Int, c1 / 64 ≤ n ∧ n ≤ eNew / 64 ∧ n ≤ e / 64 ∧
        ∀ t ∈ s.ring.tiles, (t.index : Int) = n → t.state ≠ .opened) ∨
      (32 - s.ring.tiles.length : Nat) < eNew / 64 - e / 64
    let refused := fun o : FrameOutcome => exec .placement s = .next (arbitrate (testDrain (decideOutcome
      { registrationRecord o f s.reg.pred h.claims h.support with origin := h.origin, delta := h.delta }
      (freeSlot i { s with reg := { s.reg with engine := .waiting, work := none, handover := none } }))))
    (e + 1 < cx0 → refused .gap) ∧ (cx0 ≤ e + 1 → eNew ≤ e → refused .slow) ∧
    (cx0 ≤ e + 1 → e < eNew → noRoom → refused .full)

/-- R91, R126, R128, R131 to R133, R135 to R138, R146: with room the frame is COMPOSITED: its new tiles opened, the writer counts of its tile
range raised, its entry queued, E advanced, the anchors rebuilt, the slot PLACED; then the outcome, the width limit, the seal
examination and the drain test, in that order. DRIFT_CROP is set when a written column's run of covered rows, taken over all rows,
leaves the canvas; the width limit is taken when E stands at Wmax - 1. That the prediction and the vote grid stay as they were is the
model's choice (log 25). -/
def Obligations.PlacementWithRoomCompositesTheFrame : Prop :=
  (∀ (s : State) (i : Fin 3) (f : CapturedFrame) (h : Handover) (m : ColumnMap), s.power = .running →
    s.reg.engine = .placing → s.reg.work = some i → s.capture.slots.get i = some f → s.reg.handover = some h →
    s.tables.columnMap = some m →
    let e := s.placement.e
    let cx0 := h.origin.x / 4
    let eNew := min (cx0 + m.k - 1) ((s.sweep.params.wmax : Int) - 1)
    let b := min ((((s.tables.feather.map (·.values)).getD []).length : Nat) : Int) (e - cx0 + 1)
    let c1 := e - b + 1
    let gain := max (-64) (min 63 ((s.placement.e0 : Int) - f.record.exposure))
    let opened := (List.range (eNew / 64 - e / 64).toNat).map fun n => freshTile s.sweep.hc ((e / 64 + 1).toNat + n)
    let u : State := { s with
      ring := { s.ring with tiles := (s.ring.tiles ++ opened).map fun t =>
        if (c1 / 64).toNat ≤ t.index ∧ t.index ≤ (eNew / 64).toNat then { t with writers := t.writers + 1 } else t }
      comp := { s.comp with queue := s.comp.queue ++
        [⟨i, h.origin, e, b.toNat, eNew, gain, (c1 / 64).toNat, (eNew / 64).toNat⟩] }
      placement := ⟨eNew, s.placement.e0, h.origin, f.record.roll, h.delta⟩
      reg := { s.reg with
        engine := .waiting, work := none, handover := none
        anchors := buildAnchors m h.origin f.record.roll (keypointsOf f.detection)
        header := ⟨f.record.hintX, f.record.hintY, f.record.broken⟩ }
      capture := { s.capture with slots := s.capture.slots.set i (some { f with state := .placed }) } }
    0 ≤ c1 → cx0 ≤ e + 1 → e < eNew →
    (∀ n : Int, c1 / 64 ≤ n → n ≤ eNew / 64 → n ≤ e / 64 → ∃ t ∈ s.ring.tiles, (t.index : Int) = n ∧ t.state = .opened) →
    eNew / 64 - e / 64 ≤ (32 - s.ring.tiles.length : Nat) →
    exec .placement s = .next (arbitrate (testDrain (examineTiles (takeWidthLimit (decideOutcome
      { registrationRecord .composited f s.reg.pred h.claims h.support with
        origin := h.origin, delta := h.delta, gain := gain
        driftCrop := driftCrop m h.origin f.record.h s.sweep.hc c1 eNew
        widthCut := decide ((s.sweep.params.wmax : Int) - 1 < cx0 + m.k - 1) } u)))))) ∧
  (∀ (m : ColumnMap) (o : Point) (h hc : Nat) (c1 eNew : Int), (∀ e ∈ m.entries, 4096 ≤ e.t) → m.yc < h →
    (driftCrop m o h hc c1 eNew = true ↔ ∃ c r : Int, c1 ≤ c ∧ c ≤ eNew ∧
      (let row := sourceRow m (entryOfColumn m o c) o r
       0 ≤ row ∧ row < h) ∧ (r < 0 ∨ (hc : Int) ≤ r))) ∧
  ∀ s : State,
    let limit := (s.sweep.state = .tracking ∨ s.sweep.state = .coasting) ∧ s.placement.e = (s.sweep.params.wmax : Int) - 1
    (limit → takeWidthLimit s = enterDraining .widthLimit s) ∧ (¬limit → takeWidthLimit s = s)

/-- R139, R140: the IDLE compositor takes the head entry; a completion writes the entry's frame into its tiles, lowers their writer
counts, frees the slot and removes the entry, and the tiles are examined and the drain tested. That the take only enters WRITING and
the pixels are written at the completion is the model's reading of section 7.6 (log 14, DEDUCED). -/
def Obligations.CompositorTakesAndCompletesTheHeadEntry : Prop :=
  ∀ (s : State) (en : CompositeEntry) (more : List CompositeEntry), s.power = .running → s.comp.queue = en :: more →
    (s.comp.writing = false →
      exec .compositeTake s = .next (arbitrate { s with comp := { s.comp with writing := true } })) ∧
    ∀ f, s.comp.writing = true → s.capture.slots.get en.slot = some f →
      exec .compositeComplete s = .next (arbitrate (testDrain (examineTiles (freeSlot en.slot { s with
        comp := ⟨false, more⟩
        ring := { s.ring with tiles := s.ring.tiles.map fun t =>
          if en.firstTile ≤ t.index ∧ t.index ≤ en.lastTile then
            { paintTile (paintInputs en f s) t with writers := t.writers - 1 }
          else t } }))))

/-- R126, R127, R137, R143 to R145: the luma of a tile's pixel after a composite, by the column's class, the frame's coverage of the
pixel, and the column's coverage before; and a chroma pair, by those of its even column and even row, without gain and with fill 128,
Cb and Cr each on its own. A written column's coverage takes the least top and the greatest bottom of the rows the frame covers there
and of what it held; one the frame covers in no row keeps it. -/
def Obligations.CompositeBlendsTheBandAndFillsFreshColumns : Prop :=
  ∀ (i : PaintInputs) (t : Tile) (n r : Nat), n < 64 → r < i.hc → t.luma.length = 64 →
    (∀ col ∈ t.luma, col.length = i.hc) →
    i.entry.firstTile ≤ t.index ∧ t.index ≤ i.entry.lastTile →
    let en := i.entry
    let c : Int := 64 * t.index + n
    let c1 : Int := en.eOld - en.band + 1
    let me := entryOfColumn i.map en.origin c
    let ysrc := sourceRow i.map me en.origin r
    let covered := 0 ≤ ysrc ∧ ysrc < i.frame.record.h
    let raw := ((i.frame.luma.getD ysrc.toNat []).getD (sourceColumn me en.origin i.frame.record.w) 0).toNat
    let new := min 255 ((raw * i.gain + 2048) / 4096)
    let old := ((t.luma.getD n []).getD r 0).toNat
    let after := ((((paintTile i t).luma.getD n []).getD r 0)).toNat
    let w := i.feather.values.getD (i.feather.values.length - en.band + (c - c1).toNat) 0
    let was := ∃ s : Coverage, t.coverage.getD n none = some s ∧ s.top ≤ r ∧ r ≤ s.bottom
    (c < c1 ∨ en.eNew < c → after = old ∧ (paintTile i t).coverage.getD n none = t.coverage.getD n none) ∧
    (c1 ≤ c → c ≤ en.eNew → c ≤ en.eOld → w ≤ 256 →
      (covered → was → after = (old * (256 - w) + new * w + 128) / 256) ∧ (covered → ¬was → after = new) ∧
      (¬covered → after = old)) ∧
    (c1 ≤ c → c ≤ en.eNew → en.eOld < c → (covered → after = new) ∧ (¬covered → after = 0)) ∧
    (c1 ≤ c → c ≤ en.eNew →
      let reached := fun q : Nat => q < i.hc ∧ 0 ≤ sourceRow i.map me en.origin q ∧ sourceRow i.map me en.origin q < i.frame.record.h
      let before := t.coverage.getD n none
      let after := (paintTile i t).coverage.getD n none
      ((∀ q, ¬reached q) → after = before) ∧
      ((∃ q, reached q) → ∃ s : Coverage, after = some s ∧ (∀ q, reached q → s.top ≤ q ∧ q ≤ s.bottom) ∧
        (∀ o, before = some o → s.top ≤ o.top ∧ o.bottom ≤ s.bottom) ∧
        (reached s.top ∨ ∃ o, before = some o ∧ o.top = s.top) ∧
        (reached s.bottom ∨ ∃ o, before = some o ∧ o.bottom = s.bottom))) ∧
    (n % 2 = 0 → r % 2 = 0 → r / 2 < i.hc / 2 → t.chroma.length = 32 → (∀ col ∈ t.chroma, col.length = i.hc / 2) →
      let taken := (i.frame.chroma.getD (ysrc.toNat / 2) []).getD (sourceColumn me en.origin i.frame.record.w / 2) (128, 128)
      let was' := (t.chroma.getD (n / 2) []).getD (r / 2) (128, 128)
      let now := ((paintTile i t).chroma.getD (n / 2) []).getD (r / 2) (128, 128)
      let mix := fun a b : Byte => (a.toNat * (256 - w) + b.toNat * w + 128) / 256
      (c < c1 ∨ en.eNew < c → now = was') ∧
      (c1 ≤ c → c ≤ en.eNew → c ≤ en.eOld → w ≤ 256 →
        (covered → was → now.1.toNat = mix was'.1 taken.1 ∧ now.2.toNat = mix was'.2 taken.2) ∧
        (covered → ¬was → now = taken) ∧ (¬covered → now = was')) ∧
      (c1 ≤ c → c ≤ en.eNew → en.eOld < c → (covered → now = taken) ∧ (¬covered → now = (128, 128))))

/-- R150, R151: an examination seals, in increasing index, exactly the OPEN tiles without a writer, in TRACKING and COASTING those whose
last column is at most E - F, each joining the sealed queue's tail. R152: a sealed tile's written columns are folded into the crop
accumulator: the greatest top and the least bottom of the tile's columns and of what the accumulator held; a tile without written
columns leaves it. R165: a tile that seals into an empty queue with the credits 0 and no episode in progress begins one: the flag is
set and CREDIT_STARVED raised, with the tile as the head; any other sealing raises nothing. That the queue is counted at that moment, as
1, though the examination may seal more tiles behind, is the model's choice (log 11). -/
def Obligations.SealingFoldsTheTileIntoTheCrop : Prop :=
  (∀ s : State, (s.ring.tiles.map (·.index)).Pairwise (· < ·) →
    let weights : Int := (((s.tables.feather.map (·.values)).getD []).length : Nat)
    let seals := fun t : Tile => decide (t.state = .opened ∧ t.writers = 0 ∧ (s.sweep.state = .draining ∨
      ((s.sweep.state = .tracking ∨ s.sweep.state = .coasting) ∧ 64 * (t.index : Int) + 63 ≤ s.placement.e - weights)))
    examineTiles s = (s.ring.tiles.filter seals).foldl sealTile s ∧
    (examineTiles s).ring.tiles = (s.ring.tiles.map fun t => if seals t then { t with state := .sealed } else t) ∧
    (examineTiles s).ring.sealedQueue = s.ring.sealedQueue ++ (s.ring.tiles.filter seals).map (·.index) ∧
    ((s.ring.tiles.filter seals).map (·.index)).Pairwise (· < ·)) ∧
  ∀ (s : State) (t : Tile), (sealTile s t).ring.sealedQueue = s.ring.sealedQueue ++ [t.index] ∧
    (let starves := s.ring.sealedQueue = [] ∧ s.ring.credits = 0 ∧ s.ring.starved = false
     (starves → (sealTile s t).ring.starved = true ∧ (sealTile s t).notes = (raise .creditStarved
       [natWord s.sweep.id, natWord t.index, natWord 1, natWord s.ring.tiles.length] s).notes) ∧
     (¬starves → (sealTile s t).ring.starved = s.ring.starved ∧ (sealTile s t).notes = s.notes)) ∧
    ((∀ c ∈ t.coverage, c = none) → (sealTile s t).ring.crop = s.ring.crop) ∧
    ((∃ c ∈ t.coverage, c ≠ none) → ∃ crop : Coverage, (sealTile s t).ring.crop = some crop ∧
      (∀ c, some c ∈ t.coverage → c.top ≤ crop.top ∧ crop.bottom ≤ c.bottom) ∧
      (∀ p, s.ring.crop = some p → p.top ≤ crop.top ∧ crop.bottom ≤ p.bottom) ∧
      (s.ring.crop = some ⟨crop.top, (s.ring.crop.getD ⟨0, 0⟩).bottom⟩ ∨ ∃ c, some c ∈ t.coverage ∧ c.top = crop.top) ∧
      (s.ring.crop = some ⟨(s.ring.crop.getD ⟨0, 0⟩).top, crop.bottom⟩ ∨ ∃ c, some c ∈ t.coverage ∧ c.bottom = crop.bottom))

/-- R30, R41: a decided outcome is counted and reported, drives the coast counter and, in TRACKING and COASTING, the sweep state;
at coast_limit the sweep drains with the cause of the outcome. Only a change of state raises SWEEP_STATE. -/
def Obligations.OutcomesDriveTheCoastCounter : Prop :=
  ∀ (r : OutcomeRecord) (s : State), s.sweep.coastAgrees →
    let t := decideOutcome r s
    let limit := s.sweep.params.coastLimit
    let cause : EndCause := if r.outcome = .reversed then .reversal else if r.outcome = .full then .starved
      else if r.outcome = .drifted then .drift else .lost
    let misses := r.outcome = .failed ∨ r.outcome = .reversed ∨ r.outcome = .full ∨ r.outcome = .drifted ∨
      r.outcome = .gap ∨ r.outcome = .damaged
    let good := decide (r.outcome = .seed ∨ r.outcome = .composited)
    let counted := fun n : Nat =>
      raise .frameOutcome (outcomeWords r s.sweep.id n) { s with
        sweep := { s.sweep with
          coast := n
          framesComposited := if good then min 65535 (s.sweep.framesComposited + 1) else s.sweep.framesComposited }
        counters := { s.counters with
          framesComposited := if good then min 65535 (s.counters.framesComposited + 1) else s.counters.framesComposited
          framesNotComposited :=
            if good then s.counters.framesNotComposited else min 65535 (s.counters.framesNotComposited + 1) } }
    t.sweep.coastAgrees ∧
    (s.sweep.state = .tracking ∨ s.sweep.state = .coasting →
      (misses → s.sweep.coast + 1 < limit → t = if s.sweep.state = .tracking then
        changeSweep .coasting s.sweep.cause (counted (s.sweep.coast + 1)) else counted (s.sweep.coast + 1)) ∧
      (misses → limit ≤ s.sweep.coast + 1 → t = enterDraining cause (counted limit)) ∧
      (r.outcome = .composited ∨ r.outcome = .slow → t = if s.sweep.state = .coasting then
        changeSweep .tracking s.sweep.cause (counted 0) else counted 0) ∧
      (r.outcome = .notCaptured ∨ r.outcome = .geometry ∨ r.outcome = .discarded → t = counted s.sweep.coast) ∧
      (misses → s.sweep.coast + 1 < limit → t.sweep.state = .coasting ∧ t.sweep.coast = s.sweep.coast + 1 ∧
        t.sweep.cause = s.sweep.cause) ∧
      (misses → limit ≤ s.sweep.coast + 1 → (t.sweep.state = .draining ∨ t.sweep.state = .ended) ∧
        t.sweep.coast = limit ∧ t.sweep.cause = cause) ∧
      (r.outcome = .composited ∨ r.outcome = .slow → t.sweep.state = .tracking ∧ t.sweep.coast = 0 ∧
        t.sweep.cause = s.sweep.cause) ∧
      (r.outcome = .notCaptured ∨ r.outcome = .geometry ∨ r.outcome = .discarded →
        t.sweep.state = s.sweep.state ∧ t.sweep.coast = s.sweep.coast ∧ t.sweep.cause = s.sweep.cause)) ∧
    (s.sweep.state = .armed →
      (r.outcome = .damaged ∨ r.outcome = .notCaptured ∨ r.outcome = .geometry ∨ r.outcome = .discarded →
        t = counted s.sweep.coast) ∧
      (r.outcome = .seed → t = changeSweep .tracking .none (counted 0))) ∧
    (s.sweep.state = .draining → t.sweep.state = .draining ∧ t.sweep.cause = s.sweep.cause ∧
      (misses → r.outcome ≠ .damaged → t.sweep.coast = min limit (s.sweep.coast + 1)) ∧
      (r.outcome = .composited ∨ r.outcome = .slow → t.sweep.coast = 0) ∧
      (r.outcome = .notCaptured ∨ r.outcome = .geometry ∨ r.outcome = .discarded → t.sweep.coast = s.sweep.coast))

/-! ### What every step keeps -/

/-- R171: after every event either the note queue is full, or no reply waits and no unmasked kind is pending; and the waiting
replies are at most one from the directive unit and one from the profile store. -/
def Obligations.EveryStepSettlesTheNoteUnit : Prop :=
  ∀ s t : State, s.notes.settled ∧ s.repliesAgree → step s = .next t → t.notes.settled ∧ t.repliesAgree

/-- R7, R10, R13, R154, R166, R170, R175, R186: every step keeps the queues within their rooms, the credits and counters in range, the
wear at most 250 and every slot image in canonical form; leaves no offer waiting on an idle, unheld lane, but for the TILEHEAD of a
run whose SWEEP_ABORT has arrived with its take (R157, log 27); and leaves no packet whole that was not handed on. -/
def Obligations.EveryStepKeepsRoomsCountersAndTheStore : Prop :=
  (∀ s t : State, s.laneAgrees → step s = .next t → t.laneAgrees) ∧
  (∀ s t : State, s.inlet.kept → step s = .next t → t.inlet.kept) ∧
  ∀ s t : State, s.roomsKept ∧ s.creditsKept ∧ s.counters.sound ∧ s.store.sound → step s = .next t →
    t.roomsKept ∧ t.creditsKept ∧ t.counters.sound ∧ t.store.sound

/-- R82, R179, R24: every VALID table stays one that passed validation, a sweep exists only on three VALID tables, and its recorded
parameters are legal. -/
def Obligations.EveryStepKeepsTablesAndParametersLegal : Prop :=
  ∀ s t : State, s.tablesAgree ∧ s.sweep.paramsAgree → step s = .next t → t.tablesAgree ∧ t.sweep.paramsAgree

/-- R30: in TRACKING the coast counter is 0, in COASTING it is above 0 and below coast_limit. -/
def Obligations.EveryStepKeepsTheCoastCounterBelowItsLimit : Prop :=
  ∀ s t : State, s.sweep.coastAgrees → step s = .next t → t.sweep.coastAgrees

/-- R38, R46, R47, R100, R138: the capture order, the slot states, the engine, the composite queue and the sweep state go on agreeing;
so in ENDED every slot is FREE, nothing registers, and the queue and the ring are empty. -/
def Obligations.EveryStepKeepsTheSweepSideCoherent : Prop :=
  (∀ s t : State, s.coherent → step s = .next t → t.coherent) ∧
  ∀ s : State, s.coherent → s.sweep.state = .idle ∨ s.sweep.state = .ended → ∀ i, s.capture.slots.get i = none

/-- R131, R136, R147, R151: the ring keeps its order, holds at most 32 tiles, its queue lists the SEALED tiles, and every writer count
is the number of queued composites that reach the tile. -/
def Obligations.EveryStepKeepsTheRingAndItsWriterCounts : Prop :=
  ∀ s t : State, s.coherent → s.tablesAgree → s.sweep.paramsAgree → s.ringAgrees ∧ s.writersAgree ∧ s.ring.tiles.length ≤ 32 →
    step s = .next t → t.ringAgrees ∧ t.writersAgree ∧ t.ring.tiles.length ≤ 32

/-- R148: a SEALED or EMITTING tile is never written: while it stays resident, its pixels and coverage stand. -/
def Obligations.SealedTileIsNeverWritten : Prop :=
  ∀ s t : State, s.coherent → s.tablesAgree → s.sweep.paramsAgree → s.ringAgrees → s.writersAgree → step s = .next t →
    ∀ u ∈ s.ring.tiles, ∀ v ∈ t.ring.tiles, u.state ≠ .opened → v.index = u.index →
      v.luma = u.luma ∧ v.chroma = u.chroma ∧ v.coverage = u.coverage ∧ v.state ≠ .opened

/-- R124: within a sweep the high-water mark never decreases and never passes Wmax - 1. -/
def Obligations.HighWaterMarkNeverFallsWithinASweep : Prop :=
  ∀ (c : Instr) (s t : State), s.coherent → exec c s = .next t → (∀ high, c ≠ .resetRelease high) → c ≠ .powerLoss →
    c ≠ .resetEngine → c ≠ .sweepArm → c ≠ .sweepRelease →
    s.placement.e ≤ t.placement.e ∧
      (t.placement.e ≠ s.placement.e → t.placement.e ≤ (t.sweep.params.wmax : Int) - 1)

/-- State.reset is the state a release with MODE low gives, and meets every invariant above. That the reset state takes the store as
delivered, MODE low and the hold line deasserted, is the model's choice (logs 3, 4, 5). -/
def Obligations.ResetStateMeetsEveryInvariant : Prop :=
  let s := State.reset
  exec (.resetRelease false) s = .next s ∧ s.notes.settled ∧ s.repliesAgree ∧ s.roomsKept ∧ s.creditsKept ∧
    s.counters.sound ∧ s.store.sound ∧ s.tablesAgree ∧ s.sweep.paramsAgree ∧ s.sweep.coastAgrees ∧ s.coherent ∧
    s.ringAgrees ∧ s.writersAgree ∧ s.laneAgrees ∧ s.inlet.kept

/-! ### Detection, projection, matching -/

/-- R70: when every survivor of a cell has arrived, in raster order, the cell holds its four strongest, ties to the earlier in raster
order (all of them where there are at most four), and its overflow flag is set exactly when there were more than four. R61, R68, R69: the
offer of row n evaluates row n - 3 and decides row n - 4, at the last row row H - 4 too, and offers each survivor to its cell. R62 to R66:
a position of the detection area is a candidate of a polarity exactly when a run of at least 9 samples around its ring qualifies, bounded
by samples that do not unless it is the whole ring; its strength is the sum over that run and its codes are the ring's. R67: a candidate
is suppressed exactly by a neighbouring one that is stronger, or as strong and earlier in raster order. -/
def Obligations.CellKeepsItsFourStrongestSurvivors : Prop :=
  (∀ survivors : List Candidate, survivors.Pairwise (fun a b => rasterBefore a b = true) →
    let cell := survivors.foldl (fun held c => offerToCell held.1 held.2 c) ([], false)
    cell.1.length = min 4 survivors.length ∧ cell.2 = decide (4 < survivors.length) ∧
    (∀ a ∈ cell.1, a ∈ survivors) ∧
    ∀ a ∈ cell.1, ∀ b ∈ survivors, b ∉ cell.1 → b.strength < a.strength ∨ (b.strength = a.strength ∧ rasterBefore a b = true)) ∧
  (∀ (tau w h : Nat) (rows : List (List Byte)) (n : Nat) (pend : List Candidate) (cells : List (List Candidate)) (overflow : List Bool),
    let found := (List.range w).filterMap fun x => candidateAt tau w h rows x (n - 3)
    let waiting := if 6 ≤ n then pend ++ found else pend
    let survivors := fun y : Nat =>
      (waiting.filter fun c => decide (c.y = y)).filter fun c => !suppressed tau w h rows c
    let decided := if 7 ≤ n then survivors (n - 4) ++ (if n + 1 = h then survivors (h - 4) else []) else []
    let kept := decided.foldl (fun held c =>
      let cell := 8 * (c.y / (h / 4)) + c.x / (w / 8)
      let r := offerToCell (held.1.getD cell []) (held.2.getD cell false) c
      (held.1.set cell r.1, held.2.set cell r.2)) (cells, overflow)
    offerRow tau w h rows (.working n pend cells overflow) = .working (n + 1)
      (waiting.filter fun c => !decide (7 ≤ n ∧ (c.y = n - 4 ∨ (n + 1 = h ∧ c.y = h - 4)))) kept.1 kept.2) ∧
  (∀ (tau w h : Nat) (rows : List (List Byte)) (x y : Nat) (c : Candidate),
    let luma := fun u v : Int => (((rows.getD v.toNat []).getD u.toNat 0).toNat : Int)
    let offsets : List (Int × Int) := [(0, -3), (1, -3), (2, -2), (3, -1), (3, 0), (3, 1), (2, 2), (1, 3), (0, 3), (-1, 3), (-2, 2),
      (-3, 1), (-3, 0), (-3, -1), (-2, -2), (-1, -3)]
    let centre := luma x y
    let ring := fun i : Nat => luma (x + (offsets.getD i (0, 0)).1) (y + (offsets.getD i (0, 0)).2)
    let term := fun i : Nat => if c.polarity = .bright then centre - ring (i % 16) - tau else ring (i % 16) - centre - tau
    let run := fun first len : Nat => 9 ≤ len ∧ len ≤ 16 ∧ (∀ j, j < len → 0 < term (first + j)) ∧
      (len < 16 → term (first + len) ≤ 0 ∧ term (first + 15) ≤ 0)
    candidateAt tau w h rows x y = some c ↔
      (3 ≤ x ∧ x + 4 ≤ w ∧ 3 ≤ y ∧ y + 4 ≤ h) ∧ c.x = x ∧ c.y = y ∧
        (∃ first len, run first len ∧ (c.strength : Int) = min 4095 ((List.range len).map fun j => term (first + j)).sum) ∧
        ∀ i, i < 16 → c.ring.getLsbD i = decide (centre < ring i) ∧
          c.chord.getLsbD i = decide (ring ((i + 5) % 16) < ring i)) ∧
  ∀ (tau w h : Nat) (rows : List (List Byte)) (c : Candidate), suppressed tau w h rows c = true ↔
    ∃ (x y : Nat) (n : Candidate), (x ≠ c.x ∨ y ≠ c.y) ∧ x ≤ c.x + 1 ∧ c.x ≤ x + 1 ∧ y ≤ c.y + 1 ∧ c.y ≤ y + 1 ∧
      candidateAt tau w h rows x y = some n ∧ (c.strength < n.strength ∨
        (c.strength = n.strength ∧ (n.y < c.y ∨ (n.y = c.y ∧ n.x < c.x))))

/-- R90: down a column whose t is at least 4096 the source rows rise with the canvas rows, so the covered rows form one unbroken run,
and new_top and new_bottom are its first and last rows within the canvas. -/
def Obligations.CoveredRowsFormOneRun : Prop :=
  ∀ (m : ColumnMap) (en : MapEntry) (o : Point) (h hc : Nat), 4096 ≤ en.t →
    (∀ r q : Int, r < q → sourceRow m en o r + (q - r) ≤ sourceRow m en o q) ∧
    (∀ r q p : Int, r ≤ q → q ≤ p → rowCovered m en o h r = true → rowCovered m en o h p = true →
      rowCovered m en o h q = true) ∧
    (∀ r p : Int, rowCovered m en o h r = true → rowCovered m en o h p = true → p - r < h) ∧
    (en.t = 4096 → ∃ top : Int, ∀ r : Int, rowCovered m en o h r = true ↔ top ≤ r ∧ r < top + h) ∧
    (∀ span, coveredSpan m en o h hc = some span → span.top ≤ span.bottom ∧ span.bottom < hc ∧
      ∀ r : Nat, r < hc → (rowCovered m en o h (r : Int) = true ↔ span.top ≤ r ∧ r ≤ span.bottom)) ∧
    (coveredSpan m en o h hc = none → ∀ r : Nat, r < hc → rowCovered m en o h (r : Int) = false)

/-- R113: after the last candidate, claims and matches name each other, at distances of at most dmax, and the claim count M is
the number of anchors that hold a claim. R107 to R112: the candidates are processed in list order. Each one's best anchor is, of those of
its polarity in the window about its search point, the first at a distance of at most early, or with none such the nearest, of equally
near ones the first. It claims that anchor at a distance of at most dmax, where the anchor is unclaimed or held at a greater distance,
whose holder is then unmatched; otherwise nothing changes. -/
def Obligations.ClaimsAndMatchesNameEachOther : Prop :=
  (∀ (i : MatchInputs) (anchors : List Anchor) (kps : List Keypoint), (∀ a ∈ anchors, a.claim = none) →
    (∀ k ∈ kps, k.matched = none) → (∀ (n : Nat) (k : Keypoint), kps[n]? = some k → k.index = n) →
    let m := register i anchors kps
    (∀ q n d : Nat, (m.claims.keypoints[q]?).bind (fun k : Keypoint => k.matched) = some ⟨n, d⟩ ↔
      (m.claims.anchors[n]?).bind (fun a : Anchor => a.claim) = some ⟨q, d⟩) ∧
    (∀ k ∈ m.claims.keypoints, ∀ c, k.matched = some c → c.distance ≤ i.params.dmax) ∧
    m.count = (m.claims.anchors.filter fun a => a.claim.isSome).length ∧
    m.count = (m.claims.keypoints.filter fun k => k.matched.isSome).length ∧
    m.count ≤ anchors.length ∧ m.count ≤ kps.length ∧ m.support ≤ m.count) ∧
  (∀ (i : MatchInputs) (anchors : List Anchor) (kps : List Keypoint),
    (register i anchors kps).claims = kps.foldl (searchCandidate i) ⟨anchors, kps⟩) ∧
  ∀ (i : MatchInputs) (st : Claims) (k : Keypoint),
    let px := i.origin.x + i.pred.x + (project i.map k.x k.y).x
    let py := i.origin.y + i.pred.y + (project i.map k.x k.y).y
    let eligible := fun a : Anchor =>
      a.polarity = k.polarity ∧ (a.ax - px).natAbs ≤ i.params.rx ∧ (a.ay - py).natAbs ≤ i.params.ry
    let differing := fun code other : Half =>
      (List.range 16).countP fun b => code.getLsbD ((b + 16 - i.roll.toNat) % 16) != other.getLsbD b
    let distance := fun a : Anchor => differing k.ring a.ring + differing k.chord a.chord
    let examined := fun (n : Nat) (a : Anchor) => st.anchors[n]? = some a ∧ eligible a
    let best := fun (n : Nat) (a : Anchor) => examined n a ∧
      ((distance a ≤ i.params.early ∧ ∀ m b, m < n → examined m b → i.params.early < distance b) ∨
        ∀ m b, examined m b → i.params.early < distance b ∧ distance a ≤ distance b ∧ (m < n → distance a < distance b))
    ((∀ a ∈ st.anchors, ¬eligible a) → searchCandidate i st k = st) ∧
    ((∃ a ∈ st.anchors, eligible a) → ∃ n a, best n a) ∧
    ∀ n a, best n a →
      let claimed := fun unmatched : Option Nat => Claims.mk
        (st.anchors.mapIdx fun m b => if m = n then { b with claim := some ⟨k.index, distance a⟩ } else b)
        (st.keypoints.mapIdx fun m q => if m = k.index then { q with matched := some ⟨n, distance a⟩ }
          else if unmatched = some m then { q with matched := none } else q)
      (i.params.dmax < distance a → searchCandidate i st k = st) ∧
      (distance a ≤ i.params.dmax → (a.claim = none → searchCandidate i st k = claimed none) ∧
        ∀ held, a.claim = some held →
          (distance a < held.distance → searchCandidate i st k = claimed (some held.index)) ∧
          (held.distance ≤ distance a → searchCandidate i st k = st))

/-- R114 to R116: with windows up to 252 and 124 every vote falls in the grid and the bins sum to M; no bin beats the winner on votes,
distance from (16, 8), row and column, in that order; with no claim support is 0, with one at least 1. -/
def Obligations.EveryVoteFallsInTheGridAndTheBestBinWins : Prop :=
  (∀ (i : MatchInputs) (anchors : List Anchor) (kps : List Keypoint), (∀ a ∈ anchors, a.claim = none) →
    (∀ k ∈ kps, k.matched = none) → (∀ (n : Nat) (k : Keypoint), kps[n]? = some k → k.index = n) →
    i.params.rx ≤ 252 → i.params.ry ≤ 124 →
    let m := register i anchors kps
    m.votes.length = 512 ∧ m.votes.sum = m.count ∧ (1 ≤ m.count → 1 ≤ m.support) ∧ (m.count = 0 → m.support = 0)) ∧
  ∀ votes : List Nat, let w := winningBin votes
    w < 512 ∧ ∀ n, n < 512 → n ≠ w →
      let key := fun k : Nat => (((k % 32 : Nat) : Int) - 16).natAbs + (((k / 32 : Nat) : Int) - 8).natAbs
      votes.getD n 0 < votes.getD w 0 ∨ votes.getD n 0 = votes.getD w 0 ∧
        (key w < key n ∨ key w = key n ∧ (w / 32 < n / 32 ∨ w / 32 = n / 32 ∧ w % 32 < n % 32))

/-- R116, R118: support counts the claims whose bins lie within one of the winning bin in both directions; the refined displacement is
the mean of their displacements to the nearest integer, halves away from zero, and for an accepted frame it differs from the
prediction by at most Rx in x and Ry in y. -/
def Obligations.RefinedDisplacementStaysInTheWindow : Prop :=
  (∀ (i : MatchInputs) (anchors : List Anchor) (kps : List Keypoint), (∀ a ∈ anchors, a.claim = none) →
    (∀ k ∈ kps, k.matched = none) → (∀ (n : Nat) (k : Keypoint), kps[n]? = some k → k.index = n) →
    let m := register i anchors kps
    let w := winningBin m.votes
    let inlying := (claimDisplacements i m.claims).filter fun d : Point => decide
      (((d.x - i.pred.x) / 16 + 16 - ((w % 32 : Nat) : Int)).natAbs ≤ 1 ∧
        ((d.y - i.pred.y) / 16 + 8 - ((w / 32 : Nat) : Int)).natAbs ≤ 1)
    m.support = inlying.length ∧ m.delta.x = meanAwayFromZero (inlying.map (·.x)).sum inlying.length ∧
    m.delta.y = meanAwayFromZero (inlying.map (·.y)).sum inlying.length ∧
    (m.reason = .none → (m.delta.x - i.pred.x).natAbs ≤ i.params.rx ∧ (m.delta.y - i.pred.y).natAbs ≤ i.params.ry)) ∧
  ∀ (sum : Int) (n : Nat), 0 < n → let q := meanAwayFromZero sum n
    (2 * (n * q - sum)).natAbs ≤ n ∧ ((2 * (n * q - sum)).natAbs = n → sum.natAbs < (n * q).natAbs)
end

