-- ==== Sys2Proof/Laws/State.lean ====
section
/-! SUPPORT. What each named update of State leaves and sets, field by field: true by rfl, for simp. -/

namespace Sys2Proof.Machine

/-! ### raise -/

@[simp] theorem raise_power (k : EventKind) (p : List Word) (s : State) : (raise k p s).power = s.power := rfl
@[simp] theorem raise_mode (k : EventKind) (p : List Word) (s : State) : (raise k p s).mode = s.mode := rfl
@[simp] theorem raise_holdLine (k : EventKind) (p : List Word) (s : State) : (raise k p s).holdLine = s.holdLine := rfl
@[simp] theorem raise_inlet (k : EventKind) (p : List Word) (s : State) : (raise k p s).inlet = s.inlet := rfl
@[simp] theorem raise_forward (k : EventKind) (p : List Word) (s : State) : (raise k p s).forward = s.forward := rfl
@[simp] theorem raise_outlet (k : EventKind) (p : List Word) (s : State) : (raise k p s).outlet = s.outlet := rfl
@[simp] theorem raise_capture (k : EventKind) (p : List Word) (s : State) : (raise k p s).capture = s.capture := rfl
@[simp] theorem raise_reg (k : EventKind) (p : List Word) (s : State) : (raise k p s).reg = s.reg := rfl
@[simp] theorem raise_placement (k : EventKind) (p : List Word) (s : State) : (raise k p s).placement = s.placement := rfl
@[simp] theorem raise_comp (k : EventKind) (p : List Word) (s : State) : (raise k p s).comp = s.comp := rfl
@[simp] theorem raise_ring (k : EventKind) (p : List Word) (s : State) : (raise k p s).ring = s.ring := rfl
@[simp] theorem raise_sweep (k : EventKind) (p : List Word) (s : State) : (raise k p s).sweep = s.sweep := rfl
@[simp] theorem raise_dirs (k : EventKind) (p : List Word) (s : State) : (raise k p s).dirs = s.dirs := rfl
@[simp] theorem raise_counters (k : EventKind) (p : List Word) (s : State) : (raise k p s).counters = s.counters := rfl
@[simp] theorem raise_tables (k : EventKind) (p : List Word) (s : State) : (raise k p s).tables = s.tables := rfl
@[simp] theorem raise_store (k : EventKind) (p : List Word) (s : State) : (raise k p s).store = s.store := rfl
@[simp] theorem raise_freeIndex (k : EventKind) (p : List Word) (s : State) : (raise k p s).freeIndex = s.freeIndex := rfl
@[simp] theorem raise_pending (k : EventKind) (p : List Word) (s : State) : (raise k p s).pending = s.pending := rfl

/-! ### fill -/

@[simp] theorem fill_power (s : State) : (fill s).power = s.power := rfl
@[simp] theorem fill_mode (s : State) : (fill s).mode = s.mode := rfl
@[simp] theorem fill_holdLine (s : State) : (fill s).holdLine = s.holdLine := rfl
@[simp] theorem fill_inlet (s : State) : (fill s).inlet = s.inlet := rfl
@[simp] theorem fill_forward (s : State) : (fill s).forward = s.forward := rfl
@[simp] theorem fill_outlet (s : State) : (fill s).outlet = s.outlet := rfl
@[simp] theorem fill_capture (s : State) : (fill s).capture = s.capture := rfl
@[simp] theorem fill_reg (s : State) : (fill s).reg = s.reg := rfl
@[simp] theorem fill_placement (s : State) : (fill s).placement = s.placement := rfl
@[simp] theorem fill_comp (s : State) : (fill s).comp = s.comp := rfl
@[simp] theorem fill_ring (s : State) : (fill s).ring = s.ring := rfl
@[simp] theorem fill_sweep (s : State) : (fill s).sweep = s.sweep := rfl
@[simp] theorem fill_counters (s : State) : (fill s).counters = s.counters := rfl
@[simp] theorem fill_tables (s : State) : (fill s).tables = s.tables := rfl
@[simp] theorem fill_freeIndex (s : State) : (fill s).freeIndex = s.freeIndex := rfl
@[simp] theorem fill_pending (s : State) : (fill s).pending = s.pending := rfl

/-! ### replyTo -/

@[simp] theorem replyTo_power (b : List Byte) (r : ResultCode) (ws : List Word) (s : State) : (replyTo b r ws s).power = s.power := rfl
@[simp] theorem replyTo_mode (b : List Byte) (r : ResultCode) (ws : List Word) (s : State) : (replyTo b r ws s).mode = s.mode := rfl
@[simp] theorem replyTo_holdLine (b : List Byte) (r : ResultCode) (ws : List Word) (s : State) : (replyTo b r ws s).holdLine = s.holdLine := rfl
@[simp] theorem replyTo_inlet (b : List Byte) (r : ResultCode) (ws : List Word) (s : State) : (replyTo b r ws s).inlet = s.inlet := rfl
@[simp] theorem replyTo_forward (b : List Byte) (r : ResultCode) (ws : List Word) (s : State) : (replyTo b r ws s).forward = s.forward := rfl
@[simp] theorem replyTo_outlet (b : List Byte) (r : ResultCode) (ws : List Word) (s : State) : (replyTo b r ws s).outlet = s.outlet := rfl
@[simp] theorem replyTo_capture (b : List Byte) (r : ResultCode) (ws : List Word) (s : State) : (replyTo b r ws s).capture = s.capture := rfl
@[simp] theorem replyTo_reg (b : List Byte) (r : ResultCode) (ws : List Word) (s : State) : (replyTo b r ws s).reg = s.reg := rfl
@[simp] theorem replyTo_placement (b : List Byte) (r : ResultCode) (ws : List Word) (s : State) : (replyTo b r ws s).placement = s.placement := rfl
@[simp] theorem replyTo_comp (b : List Byte) (r : ResultCode) (ws : List Word) (s : State) : (replyTo b r ws s).comp = s.comp := rfl
@[simp] theorem replyTo_ring (b : List Byte) (r : ResultCode) (ws : List Word) (s : State) : (replyTo b r ws s).ring = s.ring := rfl
@[simp] theorem replyTo_sweep (b : List Byte) (r : ResultCode) (ws : List Word) (s : State) : (replyTo b r ws s).sweep = s.sweep := rfl
@[simp] theorem replyTo_counters (b : List Byte) (r : ResultCode) (ws : List Word) (s : State) : (replyTo b r ws s).counters = s.counters := rfl
@[simp] theorem replyTo_tables (b : List Byte) (r : ResultCode) (ws : List Word) (s : State) : (replyTo b r ws s).tables = s.tables := rfl
@[simp] theorem replyTo_freeIndex (b : List Byte) (r : ResultCode) (ws : List Word) (s : State) : (replyTo b r ws s).freeIndex = s.freeIndex := rfl
@[simp] theorem replyTo_pending (b : List Byte) (r : ResultCode) (ws : List Word) (s : State) : (replyTo b r ws s).pending = s.pending := rfl

/-! ### storeReply -/

@[simp] theorem storeReply_power (c : Byte) (r : ResultCode) (ws : List Word) (s : State) : (storeReply c r ws s).power = s.power := rfl
@[simp] theorem storeReply_mode (c : Byte) (r : ResultCode) (ws : List Word) (s : State) : (storeReply c r ws s).mode = s.mode := rfl
@[simp] theorem storeReply_holdLine (c : Byte) (r : ResultCode) (ws : List Word) (s : State) : (storeReply c r ws s).holdLine = s.holdLine := rfl
@[simp] theorem storeReply_inlet (c : Byte) (r : ResultCode) (ws : List Word) (s : State) : (storeReply c r ws s).inlet = s.inlet := rfl
@[simp] theorem storeReply_forward (c : Byte) (r : ResultCode) (ws : List Word) (s : State) : (storeReply c r ws s).forward = s.forward := rfl
@[simp] theorem storeReply_outlet (c : Byte) (r : ResultCode) (ws : List Word) (s : State) : (storeReply c r ws s).outlet = s.outlet := rfl
@[simp] theorem storeReply_capture (c : Byte) (r : ResultCode) (ws : List Word) (s : State) : (storeReply c r ws s).capture = s.capture := rfl
@[simp] theorem storeReply_reg (c : Byte) (r : ResultCode) (ws : List Word) (s : State) : (storeReply c r ws s).reg = s.reg := rfl
@[simp] theorem storeReply_placement (c : Byte) (r : ResultCode) (ws : List Word) (s : State) : (storeReply c r ws s).placement = s.placement := rfl
@[simp] theorem storeReply_comp (c : Byte) (r : ResultCode) (ws : List Word) (s : State) : (storeReply c r ws s).comp = s.comp := rfl
@[simp] theorem storeReply_ring (c : Byte) (r : ResultCode) (ws : List Word) (s : State) : (storeReply c r ws s).ring = s.ring := rfl
@[simp] theorem storeReply_sweep (c : Byte) (r : ResultCode) (ws : List Word) (s : State) : (storeReply c r ws s).sweep = s.sweep := rfl
@[simp] theorem storeReply_counters (c : Byte) (r : ResultCode) (ws : List Word) (s : State) : (storeReply c r ws s).counters = s.counters := rfl
@[simp] theorem storeReply_tables (c : Byte) (r : ResultCode) (ws : List Word) (s : State) : (storeReply c r ws s).tables = s.tables := rfl
@[simp] theorem storeReply_freeIndex (c : Byte) (r : ResultCode) (ws : List Word) (s : State) : (storeReply c r ws s).freeIndex = s.freeIndex := rfl
@[simp] theorem storeReply_pending (c : Byte) (r : ResultCode) (ws : List Word) (s : State) : (storeReply c r ws s).pending = s.pending := rfl

/-! ### setSlot -/

@[simp] theorem setSlot_power (i : Fin 3) (f : CapturedFrame) (s : State) : (setSlot i f s).power = s.power := rfl
@[simp] theorem setSlot_mode (i : Fin 3) (f : CapturedFrame) (s : State) : (setSlot i f s).mode = s.mode := rfl
@[simp] theorem setSlot_holdLine (i : Fin 3) (f : CapturedFrame) (s : State) : (setSlot i f s).holdLine = s.holdLine := rfl
@[simp] theorem setSlot_inlet (i : Fin 3) (f : CapturedFrame) (s : State) : (setSlot i f s).inlet = s.inlet := rfl
@[simp] theorem setSlot_forward (i : Fin 3) (f : CapturedFrame) (s : State) : (setSlot i f s).forward = s.forward := rfl
@[simp] theorem setSlot_outlet (i : Fin 3) (f : CapturedFrame) (s : State) : (setSlot i f s).outlet = s.outlet := rfl
@[simp] theorem setSlot_reg (i : Fin 3) (f : CapturedFrame) (s : State) : (setSlot i f s).reg = s.reg := rfl
@[simp] theorem setSlot_placement (i : Fin 3) (f : CapturedFrame) (s : State) : (setSlot i f s).placement = s.placement := rfl
@[simp] theorem setSlot_comp (i : Fin 3) (f : CapturedFrame) (s : State) : (setSlot i f s).comp = s.comp := rfl
@[simp] theorem setSlot_ring (i : Fin 3) (f : CapturedFrame) (s : State) : (setSlot i f s).ring = s.ring := rfl
@[simp] theorem setSlot_sweep (i : Fin 3) (f : CapturedFrame) (s : State) : (setSlot i f s).sweep = s.sweep := rfl
@[simp] theorem setSlot_dirs (i : Fin 3) (f : CapturedFrame) (s : State) : (setSlot i f s).dirs = s.dirs := rfl
@[simp] theorem setSlot_notes (i : Fin 3) (f : CapturedFrame) (s : State) : (setSlot i f s).notes = s.notes := rfl
@[simp] theorem setSlot_counters (i : Fin 3) (f : CapturedFrame) (s : State) : (setSlot i f s).counters = s.counters := rfl
@[simp] theorem setSlot_tables (i : Fin 3) (f : CapturedFrame) (s : State) : (setSlot i f s).tables = s.tables := rfl
@[simp] theorem setSlot_store (i : Fin 3) (f : CapturedFrame) (s : State) : (setSlot i f s).store = s.store := rfl
@[simp] theorem setSlot_freeIndex (i : Fin 3) (f : CapturedFrame) (s : State) : (setSlot i f s).freeIndex = s.freeIndex := rfl
@[simp] theorem setSlot_pending (i : Fin 3) (f : CapturedFrame) (s : State) : (setSlot i f s).pending = s.pending := rfl

/-! ### freeSlot -/

@[simp] theorem freeSlot_power (i : Fin 3) (s : State) : (freeSlot i s).power = s.power := rfl
@[simp] theorem freeSlot_mode (i : Fin 3) (s : State) : (freeSlot i s).mode = s.mode := rfl
@[simp] theorem freeSlot_holdLine (i : Fin 3) (s : State) : (freeSlot i s).holdLine = s.holdLine := rfl
@[simp] theorem freeSlot_inlet (i : Fin 3) (s : State) : (freeSlot i s).inlet = s.inlet := rfl
@[simp] theorem freeSlot_forward (i : Fin 3) (s : State) : (freeSlot i s).forward = s.forward := rfl
@[simp] theorem freeSlot_outlet (i : Fin 3) (s : State) : (freeSlot i s).outlet = s.outlet := rfl
@[simp] theorem freeSlot_reg (i : Fin 3) (s : State) : (freeSlot i s).reg = s.reg := rfl
@[simp] theorem freeSlot_placement (i : Fin 3) (s : State) : (freeSlot i s).placement = s.placement := rfl
@[simp] theorem freeSlot_comp (i : Fin 3) (s : State) : (freeSlot i s).comp = s.comp := rfl
@[simp] theorem freeSlot_ring (i : Fin 3) (s : State) : (freeSlot i s).ring = s.ring := rfl
@[simp] theorem freeSlot_sweep (i : Fin 3) (s : State) : (freeSlot i s).sweep = s.sweep := rfl
@[simp] theorem freeSlot_dirs (i : Fin 3) (s : State) : (freeSlot i s).dirs = s.dirs := rfl
@[simp] theorem freeSlot_notes (i : Fin 3) (s : State) : (freeSlot i s).notes = s.notes := rfl
@[simp] theorem freeSlot_counters (i : Fin 3) (s : State) : (freeSlot i s).counters = s.counters := rfl
@[simp] theorem freeSlot_tables (i : Fin 3) (s : State) : (freeSlot i s).tables = s.tables := rfl
@[simp] theorem freeSlot_store (i : Fin 3) (s : State) : (freeSlot i s).store = s.store := rfl
@[simp] theorem freeSlot_freeIndex (i : Fin 3) (s : State) : (freeSlot i s).freeIndex = s.freeIndex := rfl
@[simp] theorem freeSlot_pending (i : Fin 3) (s : State) : (freeSlot i s).pending = s.pending := rfl

/-! ### changeSweep -/

@[simp] theorem changeSweep_power (st : SweepState) (c : EndCause) (s : State) : (changeSweep st c s).power = s.power := rfl
@[simp] theorem changeSweep_mode (st : SweepState) (c : EndCause) (s : State) : (changeSweep st c s).mode = s.mode := rfl
@[simp] theorem changeSweep_holdLine (st : SweepState) (c : EndCause) (s : State) : (changeSweep st c s).holdLine = s.holdLine := rfl
@[simp] theorem changeSweep_inlet (st : SweepState) (c : EndCause) (s : State) : (changeSweep st c s).inlet = s.inlet := rfl
@[simp] theorem changeSweep_forward (st : SweepState) (c : EndCause) (s : State) : (changeSweep st c s).forward = s.forward := rfl
@[simp] theorem changeSweep_outlet (st : SweepState) (c : EndCause) (s : State) : (changeSweep st c s).outlet = s.outlet := rfl
@[simp] theorem changeSweep_capture (st : SweepState) (c : EndCause) (s : State) : (changeSweep st c s).capture = s.capture := rfl
@[simp] theorem changeSweep_reg (st : SweepState) (c : EndCause) (s : State) : (changeSweep st c s).reg = s.reg := rfl
@[simp] theorem changeSweep_placement (st : SweepState) (c : EndCause) (s : State) : (changeSweep st c s).placement = s.placement := rfl
@[simp] theorem changeSweep_comp (st : SweepState) (c : EndCause) (s : State) : (changeSweep st c s).comp = s.comp := rfl
@[simp] theorem changeSweep_ring (st : SweepState) (c : EndCause) (s : State) : (changeSweep st c s).ring = s.ring := rfl
@[simp] theorem changeSweep_dirs (st : SweepState) (c : EndCause) (s : State) : (changeSweep st c s).dirs = s.dirs := rfl
@[simp] theorem changeSweep_counters (st : SweepState) (c : EndCause) (s : State) : (changeSweep st c s).counters = s.counters := rfl
@[simp] theorem changeSweep_tables (st : SweepState) (c : EndCause) (s : State) : (changeSweep st c s).tables = s.tables := rfl
@[simp] theorem changeSweep_store (st : SweepState) (c : EndCause) (s : State) : (changeSweep st c s).store = s.store := rfl
@[simp] theorem changeSweep_freeIndex (st : SweepState) (c : EndCause) (s : State) : (changeSweep st c s).freeIndex = s.freeIndex := rfl
@[simp] theorem changeSweep_pending (st : SweepState) (c : EndCause) (s : State) : (changeSweep st c s).pending = s.pending := rfl

/-! ### recordOutcome -/

@[simp] theorem recordOutcome_power (r : OutcomeRecord) (s : State) : (recordOutcome r s).power = s.power := rfl
@[simp] theorem recordOutcome_mode (r : OutcomeRecord) (s : State) : (recordOutcome r s).mode = s.mode := rfl
@[simp] theorem recordOutcome_holdLine (r : OutcomeRecord) (s : State) : (recordOutcome r s).holdLine = s.holdLine := rfl
@[simp] theorem recordOutcome_inlet (r : OutcomeRecord) (s : State) : (recordOutcome r s).inlet = s.inlet := rfl
@[simp] theorem recordOutcome_forward (r : OutcomeRecord) (s : State) : (recordOutcome r s).forward = s.forward := rfl
@[simp] theorem recordOutcome_outlet (r : OutcomeRecord) (s : State) : (recordOutcome r s).outlet = s.outlet := rfl
@[simp] theorem recordOutcome_capture (r : OutcomeRecord) (s : State) : (recordOutcome r s).capture = s.capture := rfl
@[simp] theorem recordOutcome_reg (r : OutcomeRecord) (s : State) : (recordOutcome r s).reg = s.reg := rfl
@[simp] theorem recordOutcome_placement (r : OutcomeRecord) (s : State) : (recordOutcome r s).placement = s.placement := rfl
@[simp] theorem recordOutcome_comp (r : OutcomeRecord) (s : State) : (recordOutcome r s).comp = s.comp := rfl
@[simp] theorem recordOutcome_ring (r : OutcomeRecord) (s : State) : (recordOutcome r s).ring = s.ring := rfl
@[simp] theorem recordOutcome_dirs (r : OutcomeRecord) (s : State) : (recordOutcome r s).dirs = s.dirs := rfl
@[simp] theorem recordOutcome_tables (r : OutcomeRecord) (s : State) : (recordOutcome r s).tables = s.tables := rfl
@[simp] theorem recordOutcome_store (r : OutcomeRecord) (s : State) : (recordOutcome r s).store = s.store := rfl
@[simp] theorem recordOutcome_freeIndex (r : OutcomeRecord) (s : State) : (recordOutcome r s).freeIndex = s.freeIndex := rfl
@[simp] theorem recordOutcome_pending (r : OutcomeRecord) (s : State) : (recordOutcome r s).pending = s.pending := rfl

/-! ### emptyCompositor -/

@[simp] theorem emptyCompositor_power (s : State) : (emptyCompositor s).power = s.power := rfl
@[simp] theorem emptyCompositor_mode (s : State) : (emptyCompositor s).mode = s.mode := rfl
@[simp] theorem emptyCompositor_holdLine (s : State) : (emptyCompositor s).holdLine = s.holdLine := rfl
@[simp] theorem emptyCompositor_inlet (s : State) : (emptyCompositor s).inlet = s.inlet := rfl
@[simp] theorem emptyCompositor_forward (s : State) : (emptyCompositor s).forward = s.forward := rfl
@[simp] theorem emptyCompositor_outlet (s : State) : (emptyCompositor s).outlet = s.outlet := rfl
@[simp] theorem emptyCompositor_capture (s : State) : (emptyCompositor s).capture = s.capture := rfl
@[simp] theorem emptyCompositor_reg (s : State) : (emptyCompositor s).reg = s.reg := rfl
@[simp] theorem emptyCompositor_placement (s : State) : (emptyCompositor s).placement = s.placement := rfl
@[simp] theorem emptyCompositor_ring (s : State) : (emptyCompositor s).ring = s.ring := rfl
@[simp] theorem emptyCompositor_sweep (s : State) : (emptyCompositor s).sweep = s.sweep := rfl
@[simp] theorem emptyCompositor_dirs (s : State) : (emptyCompositor s).dirs = s.dirs := rfl
@[simp] theorem emptyCompositor_notes (s : State) : (emptyCompositor s).notes = s.notes := rfl
@[simp] theorem emptyCompositor_counters (s : State) : (emptyCompositor s).counters = s.counters := rfl
@[simp] theorem emptyCompositor_tables (s : State) : (emptyCompositor s).tables = s.tables := rfl
@[simp] theorem emptyCompositor_store (s : State) : (emptyCompositor s).store = s.store := rfl
@[simp] theorem emptyCompositor_freeIndex (s : State) : (emptyCompositor s).freeIndex = s.freeIndex := rfl
@[simp] theorem emptyCompositor_pending (s : State) : (emptyCompositor s).pending = s.pending := rfl

/-! ### stopRegistration -/

@[simp] theorem stopRegistration_power (s : State) : (stopRegistration s).power = s.power := rfl
@[simp] theorem stopRegistration_mode (s : State) : (stopRegistration s).mode = s.mode := rfl
@[simp] theorem stopRegistration_holdLine (s : State) : (stopRegistration s).holdLine = s.holdLine := rfl
@[simp] theorem stopRegistration_inlet (s : State) : (stopRegistration s).inlet = s.inlet := rfl
@[simp] theorem stopRegistration_forward (s : State) : (stopRegistration s).forward = s.forward := rfl
@[simp] theorem stopRegistration_outlet (s : State) : (stopRegistration s).outlet = s.outlet := rfl
@[simp] theorem stopRegistration_capture (s : State) : (stopRegistration s).capture = s.capture := rfl
@[simp] theorem stopRegistration_placement (s : State) : (stopRegistration s).placement = s.placement := rfl
@[simp] theorem stopRegistration_comp (s : State) : (stopRegistration s).comp = s.comp := rfl
@[simp] theorem stopRegistration_ring (s : State) : (stopRegistration s).ring = s.ring := rfl
@[simp] theorem stopRegistration_sweep (s : State) : (stopRegistration s).sweep = s.sweep := rfl
@[simp] theorem stopRegistration_dirs (s : State) : (stopRegistration s).dirs = s.dirs := rfl
@[simp] theorem stopRegistration_notes (s : State) : (stopRegistration s).notes = s.notes := rfl
@[simp] theorem stopRegistration_counters (s : State) : (stopRegistration s).counters = s.counters := rfl
@[simp] theorem stopRegistration_tables (s : State) : (stopRegistration s).tables = s.tables := rfl
@[simp] theorem stopRegistration_store (s : State) : (stopRegistration s).store = s.store := rfl
@[simp] theorem stopRegistration_freeIndex (s : State) : (stopRegistration s).freeIndex = s.freeIndex := rfl
@[simp] theorem stopRegistration_pending (s : State) : (stopRegistration s).pending = s.pending := rfl

/-! ### startPacket -/

@[simp] theorem startPacket_power (c : Claimant) (p : Packet) (s : State) : (startPacket c p s).power = s.power := rfl
@[simp] theorem startPacket_mode (c : Claimant) (p : Packet) (s : State) : (startPacket c p s).mode = s.mode := rfl
@[simp] theorem startPacket_holdLine (c : Claimant) (p : Packet) (s : State) : (startPacket c p s).holdLine = s.holdLine := rfl
@[simp] theorem startPacket_inlet (c : Claimant) (p : Packet) (s : State) : (startPacket c p s).inlet = s.inlet := rfl
@[simp] theorem startPacket_forward (c : Claimant) (p : Packet) (s : State) : (startPacket c p s).forward = s.forward := rfl
@[simp] theorem startPacket_capture (c : Claimant) (p : Packet) (s : State) : (startPacket c p s).capture = s.capture := rfl
@[simp] theorem startPacket_reg (c : Claimant) (p : Packet) (s : State) : (startPacket c p s).reg = s.reg := rfl
@[simp] theorem startPacket_placement (c : Claimant) (p : Packet) (s : State) : (startPacket c p s).placement = s.placement := rfl
@[simp] theorem startPacket_comp (c : Claimant) (p : Packet) (s : State) : (startPacket c p s).comp = s.comp := rfl
@[simp] theorem startPacket_ring (c : Claimant) (p : Packet) (s : State) : (startPacket c p s).ring = s.ring := rfl
@[simp] theorem startPacket_sweep (c : Claimant) (p : Packet) (s : State) : (startPacket c p s).sweep = s.sweep := rfl
@[simp] theorem startPacket_dirs (c : Claimant) (p : Packet) (s : State) : (startPacket c p s).dirs = s.dirs := rfl
@[simp] theorem startPacket_notes (c : Claimant) (p : Packet) (s : State) : (startPacket c p s).notes = s.notes := rfl
@[simp] theorem startPacket_counters (c : Claimant) (p : Packet) (s : State) : (startPacket c p s).counters = s.counters := rfl
@[simp] theorem startPacket_tables (c : Claimant) (p : Packet) (s : State) : (startPacket c p s).tables = s.tables := rfl
@[simp] theorem startPacket_store (c : Claimant) (p : Packet) (s : State) : (startPacket c p s).store = s.store := rfl
@[simp] theorem startPacket_freeIndex (c : Claimant) (p : Packet) (s : State) : (startPacket c p s).freeIndex = s.freeIndex := rfl
@[simp] theorem startPacket_pending (c : Claimant) (p : Packet) (s : State) : (startPacket c p s).pending = s.pending := rfl

/-! ### popDirective -/

@[simp] theorem popDirective_power (s : State) : (popDirective s).power = s.power := rfl
@[simp] theorem popDirective_mode (s : State) : (popDirective s).mode = s.mode := rfl
@[simp] theorem popDirective_holdLine (s : State) : (popDirective s).holdLine = s.holdLine := rfl
@[simp] theorem popDirective_inlet (s : State) : (popDirective s).inlet = s.inlet := rfl
@[simp] theorem popDirective_forward (s : State) : (popDirective s).forward = s.forward := rfl
@[simp] theorem popDirective_outlet (s : State) : (popDirective s).outlet = s.outlet := rfl
@[simp] theorem popDirective_capture (s : State) : (popDirective s).capture = s.capture := rfl
@[simp] theorem popDirective_reg (s : State) : (popDirective s).reg = s.reg := rfl
@[simp] theorem popDirective_placement (s : State) : (popDirective s).placement = s.placement := rfl
@[simp] theorem popDirective_comp (s : State) : (popDirective s).comp = s.comp := rfl
@[simp] theorem popDirective_ring (s : State) : (popDirective s).ring = s.ring := rfl
@[simp] theorem popDirective_sweep (s : State) : (popDirective s).sweep = s.sweep := rfl
@[simp] theorem popDirective_notes (s : State) : (popDirective s).notes = s.notes := rfl
@[simp] theorem popDirective_counters (s : State) : (popDirective s).counters = s.counters := rfl
@[simp] theorem popDirective_tables (s : State) : (popDirective s).tables = s.tables := rfl
@[simp] theorem popDirective_store (s : State) : (popDirective s).store = s.store := rfl
@[simp] theorem popDirective_freeIndex (s : State) : (popDirective s).freeIndex = s.freeIndex := rfl
@[simp] theorem popDirective_pending (s : State) : (popDirective s).pending = s.pending := rfl

/-! ### setFraming -/

@[simp] theorem setFraming_power (f : Framing) (n : Nat) (s : State) : (setFraming f n s).power = s.power := rfl
@[simp] theorem setFraming_mode (f : Framing) (n : Nat) (s : State) : (setFraming f n s).mode = s.mode := rfl
@[simp] theorem setFraming_holdLine (f : Framing) (n : Nat) (s : State) : (setFraming f n s).holdLine = s.holdLine := rfl
@[simp] theorem setFraming_forward (f : Framing) (n : Nat) (s : State) : (setFraming f n s).forward = s.forward := rfl
@[simp] theorem setFraming_outlet (f : Framing) (n : Nat) (s : State) : (setFraming f n s).outlet = s.outlet := rfl
@[simp] theorem setFraming_capture (f : Framing) (n : Nat) (s : State) : (setFraming f n s).capture = s.capture := rfl
@[simp] theorem setFraming_reg (f : Framing) (n : Nat) (s : State) : (setFraming f n s).reg = s.reg := rfl
@[simp] theorem setFraming_placement (f : Framing) (n : Nat) (s : State) : (setFraming f n s).placement = s.placement := rfl
@[simp] theorem setFraming_comp (f : Framing) (n : Nat) (s : State) : (setFraming f n s).comp = s.comp := rfl
@[simp] theorem setFraming_ring (f : Framing) (n : Nat) (s : State) : (setFraming f n s).ring = s.ring := rfl
@[simp] theorem setFraming_sweep (f : Framing) (n : Nat) (s : State) : (setFraming f n s).sweep = s.sweep := rfl
@[simp] theorem setFraming_dirs (f : Framing) (n : Nat) (s : State) : (setFraming f n s).dirs = s.dirs := rfl
@[simp] theorem setFraming_notes (f : Framing) (n : Nat) (s : State) : (setFraming f n s).notes = s.notes := rfl
@[simp] theorem setFraming_counters (f : Framing) (n : Nat) (s : State) : (setFraming f n s).counters = s.counters := rfl
@[simp] theorem setFraming_tables (f : Framing) (n : Nat) (s : State) : (setFraming f n s).tables = s.tables := rfl
@[simp] theorem setFraming_store (f : Framing) (n : Nat) (s : State) : (setFraming f n s).store = s.store := rfl
@[simp] theorem setFraming_freeIndex (f : Framing) (n : Nat) (s : State) : (setFraming f n s).freeIndex = s.freeIndex := rfl
@[simp] theorem setFraming_pending (f : Framing) (n : Nat) (s : State) : (setFraming f n s).pending = s.pending := rfl

/-! ### receivePacket -/

@[simp] theorem receivePacket_power (b : List Byte) (s : State) : (receivePacket b s).power = s.power := rfl
@[simp] theorem receivePacket_mode (b : List Byte) (s : State) : (receivePacket b s).mode = s.mode := rfl
@[simp] theorem receivePacket_holdLine (b : List Byte) (s : State) : (receivePacket b s).holdLine = s.holdLine := rfl
@[simp] theorem receivePacket_forward (b : List Byte) (s : State) : (receivePacket b s).forward = s.forward := rfl
@[simp] theorem receivePacket_outlet (b : List Byte) (s : State) : (receivePacket b s).outlet = s.outlet := rfl
@[simp] theorem receivePacket_capture (b : List Byte) (s : State) : (receivePacket b s).capture = s.capture := rfl
@[simp] theorem receivePacket_reg (b : List Byte) (s : State) : (receivePacket b s).reg = s.reg := rfl
@[simp] theorem receivePacket_placement (b : List Byte) (s : State) : (receivePacket b s).placement = s.placement := rfl
@[simp] theorem receivePacket_comp (b : List Byte) (s : State) : (receivePacket b s).comp = s.comp := rfl
@[simp] theorem receivePacket_ring (b : List Byte) (s : State) : (receivePacket b s).ring = s.ring := rfl
@[simp] theorem receivePacket_sweep (b : List Byte) (s : State) : (receivePacket b s).sweep = s.sweep := rfl
@[simp] theorem receivePacket_dirs (b : List Byte) (s : State) : (receivePacket b s).dirs = s.dirs := rfl
@[simp] theorem receivePacket_notes (b : List Byte) (s : State) : (receivePacket b s).notes = s.notes := rfl
@[simp] theorem receivePacket_counters (b : List Byte) (s : State) : (receivePacket b s).counters = s.counters := rfl
@[simp] theorem receivePacket_tables (b : List Byte) (s : State) : (receivePacket b s).tables = s.tables := rfl
@[simp] theorem receivePacket_store (b : List Byte) (s : State) : (receivePacket b s).store = s.store := rfl
@[simp] theorem receivePacket_freeIndex (b : List Byte) (s : State) : (receivePacket b s).freeIndex = s.freeIndex := rfl
@[simp] theorem receivePacket_pending (b : List Byte) (s : State) : (receivePacket b s).pending = s.pending := rfl

/-! ### countOpen -/

@[simp] theorem countOpen_power (f : OpenFields) (s : State) : (countOpen f s).power = s.power := rfl
@[simp] theorem countOpen_mode (f : OpenFields) (s : State) : (countOpen f s).mode = s.mode := rfl
@[simp] theorem countOpen_holdLine (f : OpenFields) (s : State) : (countOpen f s).holdLine = s.holdLine := rfl
@[simp] theorem countOpen_inlet (f : OpenFields) (s : State) : (countOpen f s).inlet = s.inlet := rfl
@[simp] theorem countOpen_forward (f : OpenFields) (s : State) : (countOpen f s).forward = s.forward := rfl
@[simp] theorem countOpen_outlet (f : OpenFields) (s : State) : (countOpen f s).outlet = s.outlet := rfl
@[simp] theorem countOpen_reg (f : OpenFields) (s : State) : (countOpen f s).reg = s.reg := rfl
@[simp] theorem countOpen_placement (f : OpenFields) (s : State) : (countOpen f s).placement = s.placement := rfl
@[simp] theorem countOpen_comp (f : OpenFields) (s : State) : (countOpen f s).comp = s.comp := rfl
@[simp] theorem countOpen_ring (f : OpenFields) (s : State) : (countOpen f s).ring = s.ring := rfl
@[simp] theorem countOpen_sweep (f : OpenFields) (s : State) : (countOpen f s).sweep = s.sweep := rfl
@[simp] theorem countOpen_dirs (f : OpenFields) (s : State) : (countOpen f s).dirs = s.dirs := rfl
@[simp] theorem countOpen_notes (f : OpenFields) (s : State) : (countOpen f s).notes = s.notes := rfl
@[simp] theorem countOpen_tables (f : OpenFields) (s : State) : (countOpen f s).tables = s.tables := rfl
@[simp] theorem countOpen_store (f : OpenFields) (s : State) : (countOpen f s).store = s.store := rfl
@[simp] theorem countOpen_freeIndex (f : OpenFields) (s : State) : (countOpen f s).freeIndex = s.freeIndex := rfl
@[simp] theorem countOpen_pending (f : OpenFields) (s : State) : (countOpen f s).pending = s.pending := rfl

/-! ### takeSlot -/

@[simp] theorem takeSlot_power (i : Fin 3) (f : OpenFields) (s : State) : (takeSlot i f s).power = s.power := rfl
@[simp] theorem takeSlot_mode (i : Fin 3) (f : OpenFields) (s : State) : (takeSlot i f s).mode = s.mode := rfl
@[simp] theorem takeSlot_holdLine (i : Fin 3) (f : OpenFields) (s : State) : (takeSlot i f s).holdLine = s.holdLine := rfl
@[simp] theorem takeSlot_inlet (i : Fin 3) (f : OpenFields) (s : State) : (takeSlot i f s).inlet = s.inlet := rfl
@[simp] theorem takeSlot_forward (i : Fin 3) (f : OpenFields) (s : State) : (takeSlot i f s).forward = s.forward := rfl
@[simp] theorem takeSlot_outlet (i : Fin 3) (f : OpenFields) (s : State) : (takeSlot i f s).outlet = s.outlet := rfl
@[simp] theorem takeSlot_reg (i : Fin 3) (f : OpenFields) (s : State) : (takeSlot i f s).reg = s.reg := rfl
@[simp] theorem takeSlot_placement (i : Fin 3) (f : OpenFields) (s : State) : (takeSlot i f s).placement = s.placement := rfl
@[simp] theorem takeSlot_comp (i : Fin 3) (f : OpenFields) (s : State) : (takeSlot i f s).comp = s.comp := rfl
@[simp] theorem takeSlot_ring (i : Fin 3) (f : OpenFields) (s : State) : (takeSlot i f s).ring = s.ring := rfl
@[simp] theorem takeSlot_sweep (i : Fin 3) (f : OpenFields) (s : State) : (takeSlot i f s).sweep = s.sweep := rfl
@[simp] theorem takeSlot_dirs (i : Fin 3) (f : OpenFields) (s : State) : (takeSlot i f s).dirs = s.dirs := rfl
@[simp] theorem takeSlot_notes (i : Fin 3) (f : OpenFields) (s : State) : (takeSlot i f s).notes = s.notes := rfl
@[simp] theorem takeSlot_counters (i : Fin 3) (f : OpenFields) (s : State) : (takeSlot i f s).counters = s.counters := rfl
@[simp] theorem takeSlot_tables (i : Fin 3) (f : OpenFields) (s : State) : (takeSlot i f s).tables = s.tables := rfl
@[simp] theorem takeSlot_store (i : Fin 3) (f : OpenFields) (s : State) : (takeSlot i f s).store = s.store := rfl
@[simp] theorem takeSlot_freeIndex (i : Fin 3) (f : OpenFields) (s : State) : (takeSlot i f s).freeIndex = s.freeIndex := rfl
@[simp] theorem takeSlot_pending (i : Fin 3) (f : OpenFields) (s : State) : (takeSlot i f s).pending = s.pending := rfl

/-! ### addLinesRepaired -/

@[simp] theorem addLinesRepaired_power (n : Nat) (s : State) : (addLinesRepaired n s).power = s.power := rfl
@[simp] theorem addLinesRepaired_mode (n : Nat) (s : State) : (addLinesRepaired n s).mode = s.mode := rfl
@[simp] theorem addLinesRepaired_holdLine (n : Nat) (s : State) : (addLinesRepaired n s).holdLine = s.holdLine := rfl
@[simp] theorem addLinesRepaired_inlet (n : Nat) (s : State) : (addLinesRepaired n s).inlet = s.inlet := rfl
@[simp] theorem addLinesRepaired_forward (n : Nat) (s : State) : (addLinesRepaired n s).forward = s.forward := rfl
@[simp] theorem addLinesRepaired_outlet (n : Nat) (s : State) : (addLinesRepaired n s).outlet = s.outlet := rfl
@[simp] theorem addLinesRepaired_capture (n : Nat) (s : State) : (addLinesRepaired n s).capture = s.capture := rfl
@[simp] theorem addLinesRepaired_reg (n : Nat) (s : State) : (addLinesRepaired n s).reg = s.reg := rfl
@[simp] theorem addLinesRepaired_placement (n : Nat) (s : State) : (addLinesRepaired n s).placement = s.placement := rfl
@[simp] theorem addLinesRepaired_comp (n : Nat) (s : State) : (addLinesRepaired n s).comp = s.comp := rfl
@[simp] theorem addLinesRepaired_ring (n : Nat) (s : State) : (addLinesRepaired n s).ring = s.ring := rfl
@[simp] theorem addLinesRepaired_sweep (n : Nat) (s : State) : (addLinesRepaired n s).sweep = s.sweep := rfl
@[simp] theorem addLinesRepaired_dirs (n : Nat) (s : State) : (addLinesRepaired n s).dirs = s.dirs := rfl
@[simp] theorem addLinesRepaired_notes (n : Nat) (s : State) : (addLinesRepaired n s).notes = s.notes := rfl
@[simp] theorem addLinesRepaired_tables (n : Nat) (s : State) : (addLinesRepaired n s).tables = s.tables := rfl
@[simp] theorem addLinesRepaired_store (n : Nat) (s : State) : (addLinesRepaired n s).store = s.store := rfl
@[simp] theorem addLinesRepaired_freeIndex (n : Nat) (s : State) : (addLinesRepaired n s).freeIndex = s.freeIndex := rfl
@[simp] theorem addLinesRepaired_pending (n : Nat) (s : State) : (addLinesRepaired n s).pending = s.pending := rfl

/-! ### idleLane -/

@[simp] theorem idleLane_power (n : Nat) (s : State) : (idleLane n s).power = s.power := rfl
@[simp] theorem idleLane_mode (n : Nat) (s : State) : (idleLane n s).mode = s.mode := rfl
@[simp] theorem idleLane_holdLine (n : Nat) (s : State) : (idleLane n s).holdLine = s.holdLine := rfl
@[simp] theorem idleLane_inlet (n : Nat) (s : State) : (idleLane n s).inlet = s.inlet := rfl
@[simp] theorem idleLane_forward (n : Nat) (s : State) : (idleLane n s).forward = s.forward := rfl
@[simp] theorem idleLane_capture (n : Nat) (s : State) : (idleLane n s).capture = s.capture := rfl
@[simp] theorem idleLane_reg (n : Nat) (s : State) : (idleLane n s).reg = s.reg := rfl
@[simp] theorem idleLane_placement (n : Nat) (s : State) : (idleLane n s).placement = s.placement := rfl
@[simp] theorem idleLane_comp (n : Nat) (s : State) : (idleLane n s).comp = s.comp := rfl
@[simp] theorem idleLane_ring (n : Nat) (s : State) : (idleLane n s).ring = s.ring := rfl
@[simp] theorem idleLane_sweep (n : Nat) (s : State) : (idleLane n s).sweep = s.sweep := rfl
@[simp] theorem idleLane_dirs (n : Nat) (s : State) : (idleLane n s).dirs = s.dirs := rfl
@[simp] theorem idleLane_notes (n : Nat) (s : State) : (idleLane n s).notes = s.notes := rfl
@[simp] theorem idleLane_counters (n : Nat) (s : State) : (idleLane n s).counters = s.counters := rfl
@[simp] theorem idleLane_tables (n : Nat) (s : State) : (idleLane n s).tables = s.tables := rfl
@[simp] theorem idleLane_store (n : Nat) (s : State) : (idleLane n s).store = s.store := rfl
@[simp] theorem idleLane_freeIndex (n : Nat) (s : State) : (idleLane n s).freeIndex = s.freeIndex := rfl
@[simp] theorem idleLane_pending (n : Nat) (s : State) : (idleLane n s).pending = s.pending := rfl

/-! ### openTiles -/

@[simp] theorem openTiles_power (lo hi : Int) (s : State) : (openTiles lo hi s).power = s.power := rfl
@[simp] theorem openTiles_mode (lo hi : Int) (s : State) : (openTiles lo hi s).mode = s.mode := rfl
@[simp] theorem openTiles_holdLine (lo hi : Int) (s : State) : (openTiles lo hi s).holdLine = s.holdLine := rfl
@[simp] theorem openTiles_inlet (lo hi : Int) (s : State) : (openTiles lo hi s).inlet = s.inlet := rfl
@[simp] theorem openTiles_forward (lo hi : Int) (s : State) : (openTiles lo hi s).forward = s.forward := rfl
@[simp] theorem openTiles_outlet (lo hi : Int) (s : State) : (openTiles lo hi s).outlet = s.outlet := rfl
@[simp] theorem openTiles_capture (lo hi : Int) (s : State) : (openTiles lo hi s).capture = s.capture := rfl
@[simp] theorem openTiles_reg (lo hi : Int) (s : State) : (openTiles lo hi s).reg = s.reg := rfl
@[simp] theorem openTiles_placement (lo hi : Int) (s : State) : (openTiles lo hi s).placement = s.placement := rfl
@[simp] theorem openTiles_comp (lo hi : Int) (s : State) : (openTiles lo hi s).comp = s.comp := rfl
@[simp] theorem openTiles_sweep (lo hi : Int) (s : State) : (openTiles lo hi s).sweep = s.sweep := rfl
@[simp] theorem openTiles_dirs (lo hi : Int) (s : State) : (openTiles lo hi s).dirs = s.dirs := rfl
@[simp] theorem openTiles_notes (lo hi : Int) (s : State) : (openTiles lo hi s).notes = s.notes := rfl
@[simp] theorem openTiles_counters (lo hi : Int) (s : State) : (openTiles lo hi s).counters = s.counters := rfl
@[simp] theorem openTiles_tables (lo hi : Int) (s : State) : (openTiles lo hi s).tables = s.tables := rfl
@[simp] theorem openTiles_store (lo hi : Int) (s : State) : (openTiles lo hi s).store = s.store := rfl
@[simp] theorem openTiles_freeIndex (lo hi : Int) (s : State) : (openTiles lo hi s).freeIndex = s.freeIndex := rfl
@[simp] theorem openTiles_pending (lo hi : Int) (s : State) : (openTiles lo hi s).pending = s.pending := rfl

/-! ### changeWriters -/

@[simp] theorem changeWriters_power (f : Nat → Nat) (lo hi : Nat) (s : State) : (changeWriters f lo hi s).power = s.power := rfl
@[simp] theorem changeWriters_mode (f : Nat → Nat) (lo hi : Nat) (s : State) : (changeWriters f lo hi s).mode = s.mode := rfl
@[simp] theorem changeWriters_holdLine (f : Nat → Nat) (lo hi : Nat) (s : State) : (changeWriters f lo hi s).holdLine = s.holdLine := rfl
@[simp] theorem changeWriters_inlet (f : Nat → Nat) (lo hi : Nat) (s : State) : (changeWriters f lo hi s).inlet = s.inlet := rfl
@[simp] theorem changeWriters_forward (f : Nat → Nat) (lo hi : Nat) (s : State) : (changeWriters f lo hi s).forward = s.forward := rfl
@[simp] theorem changeWriters_outlet (f : Nat → Nat) (lo hi : Nat) (s : State) : (changeWriters f lo hi s).outlet = s.outlet := rfl
@[simp] theorem changeWriters_capture (f : Nat → Nat) (lo hi : Nat) (s : State) : (changeWriters f lo hi s).capture = s.capture := rfl
@[simp] theorem changeWriters_reg (f : Nat → Nat) (lo hi : Nat) (s : State) : (changeWriters f lo hi s).reg = s.reg := rfl
@[simp] theorem changeWriters_placement (f : Nat → Nat) (lo hi : Nat) (s : State) : (changeWriters f lo hi s).placement = s.placement := rfl
@[simp] theorem changeWriters_comp (f : Nat → Nat) (lo hi : Nat) (s : State) : (changeWriters f lo hi s).comp = s.comp := rfl
@[simp] theorem changeWriters_sweep (f : Nat → Nat) (lo hi : Nat) (s : State) : (changeWriters f lo hi s).sweep = s.sweep := rfl
@[simp] theorem changeWriters_dirs (f : Nat → Nat) (lo hi : Nat) (s : State) : (changeWriters f lo hi s).dirs = s.dirs := rfl
@[simp] theorem changeWriters_notes (f : Nat → Nat) (lo hi : Nat) (s : State) : (changeWriters f lo hi s).notes = s.notes := rfl
@[simp] theorem changeWriters_counters (f : Nat → Nat) (lo hi : Nat) (s : State) : (changeWriters f lo hi s).counters = s.counters := rfl
@[simp] theorem changeWriters_tables (f : Nat → Nat) (lo hi : Nat) (s : State) : (changeWriters f lo hi s).tables = s.tables := rfl
@[simp] theorem changeWriters_store (f : Nat → Nat) (lo hi : Nat) (s : State) : (changeWriters f lo hi s).store = s.store := rfl
@[simp] theorem changeWriters_freeIndex (f : Nat → Nat) (lo hi : Nat) (s : State) : (changeWriters f lo hi s).freeIndex = s.freeIndex := rfl
@[simp] theorem changeWriters_pending (f : Nat → Nat) (lo hi : Nat) (s : State) : (changeWriters f lo hi s).pending = s.pending := rfl

/-! ### becomeAnchor -/

@[simp] theorem becomeAnchor_power (f : CapturedFrame) (o d : Point) (s : State) : (becomeAnchor f o d s).power = s.power := rfl
@[simp] theorem becomeAnchor_mode (f : CapturedFrame) (o d : Point) (s : State) : (becomeAnchor f o d s).mode = s.mode := rfl
@[simp] theorem becomeAnchor_holdLine (f : CapturedFrame) (o d : Point) (s : State) : (becomeAnchor f o d s).holdLine = s.holdLine := rfl
@[simp] theorem becomeAnchor_inlet (f : CapturedFrame) (o d : Point) (s : State) : (becomeAnchor f o d s).inlet = s.inlet := rfl
@[simp] theorem becomeAnchor_forward (f : CapturedFrame) (o d : Point) (s : State) : (becomeAnchor f o d s).forward = s.forward := rfl
@[simp] theorem becomeAnchor_outlet (f : CapturedFrame) (o d : Point) (s : State) : (becomeAnchor f o d s).outlet = s.outlet := rfl
@[simp] theorem becomeAnchor_capture (f : CapturedFrame) (o d : Point) (s : State) : (becomeAnchor f o d s).capture = s.capture := rfl
@[simp] theorem becomeAnchor_comp (f : CapturedFrame) (o d : Point) (s : State) : (becomeAnchor f o d s).comp = s.comp := rfl
@[simp] theorem becomeAnchor_ring (f : CapturedFrame) (o d : Point) (s : State) : (becomeAnchor f o d s).ring = s.ring := rfl
@[simp] theorem becomeAnchor_sweep (f : CapturedFrame) (o d : Point) (s : State) : (becomeAnchor f o d s).sweep = s.sweep := rfl
@[simp] theorem becomeAnchor_dirs (f : CapturedFrame) (o d : Point) (s : State) : (becomeAnchor f o d s).dirs = s.dirs := rfl
@[simp] theorem becomeAnchor_notes (f : CapturedFrame) (o d : Point) (s : State) : (becomeAnchor f o d s).notes = s.notes := rfl
@[simp] theorem becomeAnchor_counters (f : CapturedFrame) (o d : Point) (s : State) : (becomeAnchor f o d s).counters = s.counters := rfl
@[simp] theorem becomeAnchor_tables (f : CapturedFrame) (o d : Point) (s : State) : (becomeAnchor f o d s).tables = s.tables := rfl
@[simp] theorem becomeAnchor_store (f : CapturedFrame) (o d : Point) (s : State) : (becomeAnchor f o d s).store = s.store := rfl
@[simp] theorem becomeAnchor_freeIndex (f : CapturedFrame) (o d : Point) (s : State) : (becomeAnchor f o d s).freeIndex = s.freeIndex := rfl
@[simp] theorem becomeAnchor_pending (f : CapturedFrame) (o d : Point) (s : State) : (becomeAnchor f o d s).pending = s.pending := rfl

/-! ### placeFrame -/

@[simp] theorem placeFrame_power (i : Fin 3) (f : CapturedFrame) (o d : Point) (b : Nat) (e g : Int) (s : State) : (placeFrame i f o d b e g s).power = s.power := rfl
@[simp] theorem placeFrame_mode (i : Fin 3) (f : CapturedFrame) (o d : Point) (b : Nat) (e g : Int) (s : State) : (placeFrame i f o d b e g s).mode = s.mode := rfl
@[simp] theorem placeFrame_holdLine (i : Fin 3) (f : CapturedFrame) (o d : Point) (b : Nat) (e g : Int) (s : State) : (placeFrame i f o d b e g s).holdLine = s.holdLine := rfl
@[simp] theorem placeFrame_inlet (i : Fin 3) (f : CapturedFrame) (o d : Point) (b : Nat) (e g : Int) (s : State) : (placeFrame i f o d b e g s).inlet = s.inlet := rfl
@[simp] theorem placeFrame_forward (i : Fin 3) (f : CapturedFrame) (o d : Point) (b : Nat) (e g : Int) (s : State) : (placeFrame i f o d b e g s).forward = s.forward := rfl
@[simp] theorem placeFrame_outlet (i : Fin 3) (f : CapturedFrame) (o d : Point) (b : Nat) (e g : Int) (s : State) : (placeFrame i f o d b e g s).outlet = s.outlet := rfl
@[simp] theorem placeFrame_sweep (i : Fin 3) (f : CapturedFrame) (o d : Point) (b : Nat) (e g : Int) (s : State) : (placeFrame i f o d b e g s).sweep = s.sweep := rfl
@[simp] theorem placeFrame_dirs (i : Fin 3) (f : CapturedFrame) (o d : Point) (b : Nat) (e g : Int) (s : State) : (placeFrame i f o d b e g s).dirs = s.dirs := rfl
@[simp] theorem placeFrame_notes (i : Fin 3) (f : CapturedFrame) (o d : Point) (b : Nat) (e g : Int) (s : State) : (placeFrame i f o d b e g s).notes = s.notes := rfl
@[simp] theorem placeFrame_counters (i : Fin 3) (f : CapturedFrame) (o d : Point) (b : Nat) (e g : Int) (s : State) : (placeFrame i f o d b e g s).counters = s.counters := rfl
@[simp] theorem placeFrame_tables (i : Fin 3) (f : CapturedFrame) (o d : Point) (b : Nat) (e g : Int) (s : State) : (placeFrame i f o d b e g s).tables = s.tables := rfl
@[simp] theorem placeFrame_store (i : Fin 3) (f : CapturedFrame) (o d : Point) (b : Nat) (e g : Int) (s : State) : (placeFrame i f o d b e g s).store = s.store := rfl
@[simp] theorem placeFrame_freeIndex (i : Fin 3) (f : CapturedFrame) (o d : Point) (b : Nat) (e g : Int) (s : State) : (placeFrame i f o d b e g s).freeIndex = s.freeIndex := rfl
@[simp] theorem placeFrame_pending (i : Fin 3) (f : CapturedFrame) (o d : Point) (b : Nat) (e g : Int) (s : State) : (placeFrame i f o d b e g s).pending = s.pending := rfl

/-! ### releaseEngine -/

@[simp] theorem releaseEngine_power (s : State) : (releaseEngine s).power = s.power := rfl
@[simp] theorem releaseEngine_mode (s : State) : (releaseEngine s).mode = s.mode := rfl
@[simp] theorem releaseEngine_holdLine (s : State) : (releaseEngine s).holdLine = s.holdLine := rfl
@[simp] theorem releaseEngine_inlet (s : State) : (releaseEngine s).inlet = s.inlet := rfl
@[simp] theorem releaseEngine_forward (s : State) : (releaseEngine s).forward = s.forward := rfl
@[simp] theorem releaseEngine_outlet (s : State) : (releaseEngine s).outlet = s.outlet := rfl
@[simp] theorem releaseEngine_capture (s : State) : (releaseEngine s).capture = s.capture := rfl
@[simp] theorem releaseEngine_placement (s : State) : (releaseEngine s).placement = s.placement := rfl
@[simp] theorem releaseEngine_comp (s : State) : (releaseEngine s).comp = s.comp := rfl
@[simp] theorem releaseEngine_ring (s : State) : (releaseEngine s).ring = s.ring := rfl
@[simp] theorem releaseEngine_sweep (s : State) : (releaseEngine s).sweep = s.sweep := rfl
@[simp] theorem releaseEngine_dirs (s : State) : (releaseEngine s).dirs = s.dirs := rfl
@[simp] theorem releaseEngine_notes (s : State) : (releaseEngine s).notes = s.notes := rfl
@[simp] theorem releaseEngine_counters (s : State) : (releaseEngine s).counters = s.counters := rfl
@[simp] theorem releaseEngine_tables (s : State) : (releaseEngine s).tables = s.tables := rfl
@[simp] theorem releaseEngine_store (s : State) : (releaseEngine s).store = s.store := rfl
@[simp] theorem releaseEngine_freeIndex (s : State) : (releaseEngine s).freeIndex = s.freeIndex := rfl
@[simp] theorem releaseEngine_pending (s : State) : (releaseEngine s).pending = s.pending := rfl

/-! ### takeComposite -/

@[simp] theorem takeComposite_power (s : State) : (takeComposite s).power = s.power := rfl
@[simp] theorem takeComposite_mode (s : State) : (takeComposite s).mode = s.mode := rfl
@[simp] theorem takeComposite_holdLine (s : State) : (takeComposite s).holdLine = s.holdLine := rfl
@[simp] theorem takeComposite_inlet (s : State) : (takeComposite s).inlet = s.inlet := rfl
@[simp] theorem takeComposite_forward (s : State) : (takeComposite s).forward = s.forward := rfl
@[simp] theorem takeComposite_outlet (s : State) : (takeComposite s).outlet = s.outlet := rfl
@[simp] theorem takeComposite_capture (s : State) : (takeComposite s).capture = s.capture := rfl
@[simp] theorem takeComposite_reg (s : State) : (takeComposite s).reg = s.reg := rfl
@[simp] theorem takeComposite_placement (s : State) : (takeComposite s).placement = s.placement := rfl
@[simp] theorem takeComposite_ring (s : State) : (takeComposite s).ring = s.ring := rfl
@[simp] theorem takeComposite_sweep (s : State) : (takeComposite s).sweep = s.sweep := rfl
@[simp] theorem takeComposite_dirs (s : State) : (takeComposite s).dirs = s.dirs := rfl
@[simp] theorem takeComposite_notes (s : State) : (takeComposite s).notes = s.notes := rfl
@[simp] theorem takeComposite_counters (s : State) : (takeComposite s).counters = s.counters := rfl
@[simp] theorem takeComposite_tables (s : State) : (takeComposite s).tables = s.tables := rfl
@[simp] theorem takeComposite_store (s : State) : (takeComposite s).store = s.store := rfl
@[simp] theorem takeComposite_freeIndex (s : State) : (takeComposite s).freeIndex = s.freeIndex := rfl
@[simp] theorem takeComposite_pending (s : State) : (takeComposite s).pending = s.pending := rfl

/-! ### setAssembly -/

@[simp] theorem setAssembly_power (a : Option Assembly) (s : State) : (setAssembly a s).power = s.power := rfl
@[simp] theorem setAssembly_mode (a : Option Assembly) (s : State) : (setAssembly a s).mode = s.mode := rfl
@[simp] theorem setAssembly_holdLine (a : Option Assembly) (s : State) : (setAssembly a s).holdLine = s.holdLine := rfl
@[simp] theorem setAssembly_inlet (a : Option Assembly) (s : State) : (setAssembly a s).inlet = s.inlet := rfl
@[simp] theorem setAssembly_forward (a : Option Assembly) (s : State) : (setAssembly a s).forward = s.forward := rfl
@[simp] theorem setAssembly_outlet (a : Option Assembly) (s : State) : (setAssembly a s).outlet = s.outlet := rfl
@[simp] theorem setAssembly_capture (a : Option Assembly) (s : State) : (setAssembly a s).capture = s.capture := rfl
@[simp] theorem setAssembly_reg (a : Option Assembly) (s : State) : (setAssembly a s).reg = s.reg := rfl
@[simp] theorem setAssembly_placement (a : Option Assembly) (s : State) : (setAssembly a s).placement = s.placement := rfl
@[simp] theorem setAssembly_comp (a : Option Assembly) (s : State) : (setAssembly a s).comp = s.comp := rfl
@[simp] theorem setAssembly_ring (a : Option Assembly) (s : State) : (setAssembly a s).ring = s.ring := rfl
@[simp] theorem setAssembly_sweep (a : Option Assembly) (s : State) : (setAssembly a s).sweep = s.sweep := rfl
@[simp] theorem setAssembly_dirs (a : Option Assembly) (s : State) : (setAssembly a s).dirs = s.dirs := rfl
@[simp] theorem setAssembly_notes (a : Option Assembly) (s : State) : (setAssembly a s).notes = s.notes := rfl
@[simp] theorem setAssembly_counters (a : Option Assembly) (s : State) : (setAssembly a s).counters = s.counters := rfl
@[simp] theorem setAssembly_store (a : Option Assembly) (s : State) : (setAssembly a s).store = s.store := rfl
@[simp] theorem setAssembly_freeIndex (a : Option Assembly) (s : State) : (setAssembly a s).freeIndex = s.freeIndex := rfl
@[simp] theorem setAssembly_pending (a : Option Assembly) (s : State) : (setAssembly a s).pending = s.pending := rfl

/-! ### setProfileSlot -/

@[simp] theorem setProfileSlot_power (i : Fin 4) (p : ProfileSlot) (s : State) : (setProfileSlot i p s).power = s.power := rfl
@[simp] theorem setProfileSlot_mode (i : Fin 4) (p : ProfileSlot) (s : State) : (setProfileSlot i p s).mode = s.mode := rfl
@[simp] theorem setProfileSlot_holdLine (i : Fin 4) (p : ProfileSlot) (s : State) : (setProfileSlot i p s).holdLine = s.holdLine := rfl
@[simp] theorem setProfileSlot_inlet (i : Fin 4) (p : ProfileSlot) (s : State) : (setProfileSlot i p s).inlet = s.inlet := rfl
@[simp] theorem setProfileSlot_forward (i : Fin 4) (p : ProfileSlot) (s : State) : (setProfileSlot i p s).forward = s.forward := rfl
@[simp] theorem setProfileSlot_outlet (i : Fin 4) (p : ProfileSlot) (s : State) : (setProfileSlot i p s).outlet = s.outlet := rfl
@[simp] theorem setProfileSlot_capture (i : Fin 4) (p : ProfileSlot) (s : State) : (setProfileSlot i p s).capture = s.capture := rfl
@[simp] theorem setProfileSlot_reg (i : Fin 4) (p : ProfileSlot) (s : State) : (setProfileSlot i p s).reg = s.reg := rfl
@[simp] theorem setProfileSlot_placement (i : Fin 4) (p : ProfileSlot) (s : State) : (setProfileSlot i p s).placement = s.placement := rfl
@[simp] theorem setProfileSlot_comp (i : Fin 4) (p : ProfileSlot) (s : State) : (setProfileSlot i p s).comp = s.comp := rfl
@[simp] theorem setProfileSlot_ring (i : Fin 4) (p : ProfileSlot) (s : State) : (setProfileSlot i p s).ring = s.ring := rfl
@[simp] theorem setProfileSlot_sweep (i : Fin 4) (p : ProfileSlot) (s : State) : (setProfileSlot i p s).sweep = s.sweep := rfl
@[simp] theorem setProfileSlot_dirs (i : Fin 4) (p : ProfileSlot) (s : State) : (setProfileSlot i p s).dirs = s.dirs := rfl
@[simp] theorem setProfileSlot_notes (i : Fin 4) (p : ProfileSlot) (s : State) : (setProfileSlot i p s).notes = s.notes := rfl
@[simp] theorem setProfileSlot_counters (i : Fin 4) (p : ProfileSlot) (s : State) : (setProfileSlot i p s).counters = s.counters := rfl
@[simp] theorem setProfileSlot_tables (i : Fin 4) (p : ProfileSlot) (s : State) : (setProfileSlot i p s).tables = s.tables := rfl
@[simp] theorem setProfileSlot_freeIndex (i : Fin 4) (p : ProfileSlot) (s : State) : (setProfileSlot i p s).freeIndex = s.freeIndex := rfl
@[simp] theorem setProfileSlot_pending (i : Fin 4) (p : ProfileSlot) (s : State) : (setProfileSlot i p s).pending = s.pending := rfl

/-! ### beginOperation -/

@[simp] theorem beginOperation_power (b : List Byte) (i : Fin 4) (o : ProfileOp) (s : State) : (beginOperation b i o s).power = s.power := rfl
@[simp] theorem beginOperation_mode (b : List Byte) (i : Fin 4) (o : ProfileOp) (s : State) : (beginOperation b i o s).mode = s.mode := rfl
@[simp] theorem beginOperation_holdLine (b : List Byte) (i : Fin 4) (o : ProfileOp) (s : State) : (beginOperation b i o s).holdLine = s.holdLine := rfl
@[simp] theorem beginOperation_inlet (b : List Byte) (i : Fin 4) (o : ProfileOp) (s : State) : (beginOperation b i o s).inlet = s.inlet := rfl
@[simp] theorem beginOperation_forward (b : List Byte) (i : Fin 4) (o : ProfileOp) (s : State) : (beginOperation b i o s).forward = s.forward := rfl
@[simp] theorem beginOperation_outlet (b : List Byte) (i : Fin 4) (o : ProfileOp) (s : State) : (beginOperation b i o s).outlet = s.outlet := rfl
@[simp] theorem beginOperation_capture (b : List Byte) (i : Fin 4) (o : ProfileOp) (s : State) : (beginOperation b i o s).capture = s.capture := rfl
@[simp] theorem beginOperation_reg (b : List Byte) (i : Fin 4) (o : ProfileOp) (s : State) : (beginOperation b i o s).reg = s.reg := rfl
@[simp] theorem beginOperation_placement (b : List Byte) (i : Fin 4) (o : ProfileOp) (s : State) : (beginOperation b i o s).placement = s.placement := rfl
@[simp] theorem beginOperation_comp (b : List Byte) (i : Fin 4) (o : ProfileOp) (s : State) : (beginOperation b i o s).comp = s.comp := rfl
@[simp] theorem beginOperation_ring (b : List Byte) (i : Fin 4) (o : ProfileOp) (s : State) : (beginOperation b i o s).ring = s.ring := rfl
@[simp] theorem beginOperation_sweep (b : List Byte) (i : Fin 4) (o : ProfileOp) (s : State) : (beginOperation b i o s).sweep = s.sweep := rfl
@[simp] theorem beginOperation_dirs (b : List Byte) (i : Fin 4) (o : ProfileOp) (s : State) : (beginOperation b i o s).dirs = s.dirs := rfl
@[simp] theorem beginOperation_notes (b : List Byte) (i : Fin 4) (o : ProfileOp) (s : State) : (beginOperation b i o s).notes = s.notes := rfl
@[simp] theorem beginOperation_counters (b : List Byte) (i : Fin 4) (o : ProfileOp) (s : State) : (beginOperation b i o s).counters = s.counters := rfl
@[simp] theorem beginOperation_tables (b : List Byte) (i : Fin 4) (o : ProfileOp) (s : State) : (beginOperation b i o s).tables = s.tables := rfl
@[simp] theorem beginOperation_freeIndex (b : List Byte) (i : Fin 4) (o : ProfileOp) (s : State) : (beginOperation b i o s).freeIndex = s.freeIndex := rfl
@[simp] theorem beginOperation_pending (b : List Byte) (i : Fin 4) (o : ProfileOp) (s : State) : (beginOperation b i o s).pending = s.pending := rfl

/-! ### startStage -/

@[simp] theorem startStage_power (i : Fin 4) (s : State) : (startStage i s).power = s.power := rfl
@[simp] theorem startStage_mode (i : Fin 4) (s : State) : (startStage i s).mode = s.mode := rfl
@[simp] theorem startStage_holdLine (i : Fin 4) (s : State) : (startStage i s).holdLine = s.holdLine := rfl
@[simp] theorem startStage_inlet (i : Fin 4) (s : State) : (startStage i s).inlet = s.inlet := rfl
@[simp] theorem startStage_forward (i : Fin 4) (s : State) : (startStage i s).forward = s.forward := rfl
@[simp] theorem startStage_outlet (i : Fin 4) (s : State) : (startStage i s).outlet = s.outlet := rfl
@[simp] theorem startStage_capture (i : Fin 4) (s : State) : (startStage i s).capture = s.capture := rfl
@[simp] theorem startStage_reg (i : Fin 4) (s : State) : (startStage i s).reg = s.reg := rfl
@[simp] theorem startStage_placement (i : Fin 4) (s : State) : (startStage i s).placement = s.placement := rfl
@[simp] theorem startStage_comp (i : Fin 4) (s : State) : (startStage i s).comp = s.comp := rfl
@[simp] theorem startStage_ring (i : Fin 4) (s : State) : (startStage i s).ring = s.ring := rfl
@[simp] theorem startStage_sweep (i : Fin 4) (s : State) : (startStage i s).sweep = s.sweep := rfl
@[simp] theorem startStage_dirs (i : Fin 4) (s : State) : (startStage i s).dirs = s.dirs := rfl
@[simp] theorem startStage_notes (i : Fin 4) (s : State) : (startStage i s).notes = s.notes := rfl
@[simp] theorem startStage_counters (i : Fin 4) (s : State) : (startStage i s).counters = s.counters := rfl
@[simp] theorem startStage_tables (i : Fin 4) (s : State) : (startStage i s).tables = s.tables := rfl
@[simp] theorem startStage_freeIndex (i : Fin 4) (s : State) : (startStage i s).freeIndex = s.freeIndex := rfl
@[simp] theorem startStage_pending (i : Fin 4) (s : State) : (startStage i s).pending = s.pending := rfl

/-! ### clearMarker -/

@[simp] theorem clearMarker_power (s : State) : (clearMarker s).power = s.power := rfl
@[simp] theorem clearMarker_mode (s : State) : (clearMarker s).mode = s.mode := rfl
@[simp] theorem clearMarker_holdLine (s : State) : (clearMarker s).holdLine = s.holdLine := rfl
@[simp] theorem clearMarker_inlet (s : State) : (clearMarker s).inlet = s.inlet := rfl
@[simp] theorem clearMarker_forward (s : State) : (clearMarker s).forward = s.forward := rfl
@[simp] theorem clearMarker_outlet (s : State) : (clearMarker s).outlet = s.outlet := rfl
@[simp] theorem clearMarker_capture (s : State) : (clearMarker s).capture = s.capture := rfl
@[simp] theorem clearMarker_reg (s : State) : (clearMarker s).reg = s.reg := rfl
@[simp] theorem clearMarker_placement (s : State) : (clearMarker s).placement = s.placement := rfl
@[simp] theorem clearMarker_comp (s : State) : (clearMarker s).comp = s.comp := rfl
@[simp] theorem clearMarker_ring (s : State) : (clearMarker s).ring = s.ring := rfl
@[simp] theorem clearMarker_sweep (s : State) : (clearMarker s).sweep = s.sweep := rfl
@[simp] theorem clearMarker_dirs (s : State) : (clearMarker s).dirs = s.dirs := rfl
@[simp] theorem clearMarker_notes (s : State) : (clearMarker s).notes = s.notes := rfl
@[simp] theorem clearMarker_counters (s : State) : (clearMarker s).counters = s.counters := rfl
@[simp] theorem clearMarker_tables (s : State) : (clearMarker s).tables = s.tables := rfl
@[simp] theorem clearMarker_freeIndex (s : State) : (clearMarker s).freeIndex = s.freeIndex := rfl
@[simp] theorem clearMarker_pending (s : State) : (clearMarker s).pending = s.pending := rfl

/-! ### State.taken -/

@[simp] theorem State.taken_power (rest : List (List Byte)) (s : State) : (s.taken rest).power = s.power := rfl
@[simp] theorem State.taken_mode (rest : List (List Byte)) (s : State) : (s.taken rest).mode = s.mode := rfl
@[simp] theorem State.taken_holdLine (rest : List (List Byte)) (s : State) : (s.taken rest).holdLine = s.holdLine := rfl
@[simp] theorem State.taken_inlet (rest : List (List Byte)) (s : State) : (s.taken rest).inlet = s.inlet := rfl
@[simp] theorem State.taken_forward (rest : List (List Byte)) (s : State) : (s.taken rest).forward = s.forward := rfl
@[simp] theorem State.taken_outlet (rest : List (List Byte)) (s : State) : (s.taken rest).outlet = s.outlet := rfl
@[simp] theorem State.taken_capture (rest : List (List Byte)) (s : State) : (s.taken rest).capture = s.capture := rfl
@[simp] theorem State.taken_reg (rest : List (List Byte)) (s : State) : (s.taken rest).reg = s.reg := rfl
@[simp] theorem State.taken_placement (rest : List (List Byte)) (s : State) : (s.taken rest).placement = s.placement := rfl
@[simp] theorem State.taken_comp (rest : List (List Byte)) (s : State) : (s.taken rest).comp = s.comp := rfl
@[simp] theorem State.taken_ring (rest : List (List Byte)) (s : State) : (s.taken rest).ring = s.ring := rfl
@[simp] theorem State.taken_sweep (rest : List (List Byte)) (s : State) : (s.taken rest).sweep = s.sweep := rfl
@[simp] theorem State.taken_notes (rest : List (List Byte)) (s : State) : (s.taken rest).notes = s.notes := rfl
@[simp] theorem State.taken_counters (rest : List (List Byte)) (s : State) : (s.taken rest).counters = s.counters := rfl
@[simp] theorem State.taken_tables (rest : List (List Byte)) (s : State) : (s.taken rest).tables = s.tables := rfl
@[simp] theorem State.taken_store (rest : List (List Byte)) (s : State) : (s.taken rest).store = s.store := rfl
@[simp] theorem State.taken_freeIndex (rest : List (List Byte)) (s : State) : (s.taken rest).freeIndex = s.freeIndex := rfl
@[simp] theorem State.taken_pending (rest : List (List Byte)) (s : State) : (s.taken rest).pending = s.pending := rfl

/-! ### Parts of changed fields -/

@[simp] theorem raise_notes (k : EventKind) (p : List Word) (s : State) : (raise k p s).notes = raiseNote k p s.notes := rfl
@[simp] theorem fill_notes (s : State) : (fill s).notes = fillNotes s.notes := rfl
@[simp] theorem setSlot_slots (i : Fin 3) (f : CapturedFrame) (s : State) : (setSlot i f s).capture.slots = s.capture.slots.set i (some f) := rfl
@[simp] theorem setSlot_capture_seq (i : Fin 3) (f : CapturedFrame) (s : State) : (setSlot i f s).capture.seq = s.capture.seq := rfl
@[simp] theorem setSlot_capture_sumX (i : Fin 3) (f : CapturedFrame) (s : State) : (setSlot i f s).capture.sumX = s.capture.sumX := rfl
@[simp] theorem setSlot_capture_sumY (i : Fin 3) (f : CapturedFrame) (s : State) : (setSlot i f s).capture.sumY = s.capture.sumY := rfl
@[simp] theorem setSlot_capture_broken (i : Fin 3) (f : CapturedFrame) (s : State) : (setSlot i f s).capture.broken = s.capture.broken := rfl
@[simp] theorem setSlot_capture_order (i : Fin 3) (f : CapturedFrame) (s : State) : (setSlot i f s).capture.order = s.capture.order := rfl
@[simp] theorem freeSlot_capture_seq (i : Fin 3) (s : State) : (freeSlot i s).capture.seq = s.capture.seq := rfl
@[simp] theorem takeSlot_capture_seq (i : Fin 3) (f : OpenFields) (s : State) : (takeSlot i f s).capture.seq = s.capture.seq := rfl
@[simp] theorem freeSlot_capture_sumX (i : Fin 3) (s : State) : (freeSlot i s).capture.sumX = s.capture.sumX := rfl
@[simp] theorem takeSlot_capture_sumX (i : Fin 3) (f : OpenFields) (s : State) : (takeSlot i f s).capture.sumX = s.capture.sumX := rfl
@[simp] theorem freeSlot_capture_sumY (i : Fin 3) (s : State) : (freeSlot i s).capture.sumY = s.capture.sumY := rfl
@[simp] theorem takeSlot_capture_sumY (i : Fin 3) (f : OpenFields) (s : State) : (takeSlot i f s).capture.sumY = s.capture.sumY := rfl
@[simp] theorem freeSlot_capture_broken (i : Fin 3) (s : State) : (freeSlot i s).capture.broken = s.capture.broken := rfl
@[simp] theorem takeSlot_capture_broken (i : Fin 3) (f : OpenFields) (s : State) : (takeSlot i f s).capture.broken = s.capture.broken := rfl
@[simp] theorem freeSlot_slots (i : Fin 3) (s : State) : (freeSlot i s).capture.slots = s.capture.slots.set i none := rfl
@[simp] theorem freeSlot_order (i : Fin 3) (s : State) : (freeSlot i s).capture.order = s.capture.order.filter fun j => decide (j ≠ i) := rfl
@[simp] theorem takeSlot_order (i : Fin 3) (f : OpenFields) (s : State) : (takeSlot i f s).capture.order = s.capture.order ++ [i] := rfl
@[simp] theorem countOpen_slots (f : OpenFields) (s : State) : (countOpen f s).capture.slots = s.capture.slots := rfl
@[simp] theorem countOpen_order (f : OpenFields) (s : State) : (countOpen f s).capture.order = s.capture.order := rfl
@[simp] theorem countOpen_seq (f : OpenFields) (s : State) : (countOpen f s).capture.seq = s.capture.seq + 1 := rfl
@[simp] theorem changeSweep_state (st : SweepState) (c : EndCause) (s : State) : (changeSweep st c s).sweep.state = st := rfl
@[simp] theorem changeSweep_cause (st : SweepState) (c : EndCause) (s : State) : (changeSweep st c s).sweep.cause = c := rfl
@[simp] theorem changeSweep_sweep_id (st : SweepState) (c : EndCause) (s : State) : (changeSweep st c s).sweep.id = s.sweep.id := rfl
@[simp] theorem changeSweep_sweep_params (st : SweepState) (c : EndCause) (s : State) : (changeSweep st c s).sweep.params = s.sweep.params := rfl
@[simp] theorem changeSweep_sweep_hc (st : SweepState) (c : EndCause) (s : State) : (changeSweep st c s).sweep.hc = s.sweep.hc := rfl
@[simp] theorem changeSweep_sweep_coast (st : SweepState) (c : EndCause) (s : State) : (changeSweep st c s).sweep.coast = s.sweep.coast := rfl
@[simp] theorem changeSweep_sweep_framesComposited (st : SweepState) (c : EndCause) (s : State) : (changeSweep st c s).sweep.framesComposited = s.sweep.framesComposited := rfl
@[simp] theorem changeSweep_sweep_tilesEmitted (st : SweepState) (c : EndCause) (s : State) : (changeSweep st c s).sweep.tilesEmitted = s.sweep.tilesEmitted := rfl
@[simp] theorem recordOutcome_sweep_state (r : OutcomeRecord) (s : State) : (recordOutcome r s).sweep.state = s.sweep.state := rfl
@[simp] theorem recordOutcome_sweep_cause (r : OutcomeRecord) (s : State) : (recordOutcome r s).sweep.cause = s.sweep.cause := rfl
@[simp] theorem recordOutcome_sweep_id (r : OutcomeRecord) (s : State) : (recordOutcome r s).sweep.id = s.sweep.id := rfl
@[simp] theorem recordOutcome_sweep_params (r : OutcomeRecord) (s : State) : (recordOutcome r s).sweep.params = s.sweep.params := rfl
@[simp] theorem recordOutcome_sweep_hc (r : OutcomeRecord) (s : State) : (recordOutcome r s).sweep.hc = s.sweep.hc := rfl
@[simp] theorem recordOutcome_sweep_coast (r : OutcomeRecord) (s : State) : (recordOutcome r s).sweep.coast = s.sweep.coast := rfl
@[simp] theorem recordOutcome_sweep_tilesEmitted (r : OutcomeRecord) (s : State) : (recordOutcome r s).sweep.tilesEmitted = s.sweep.tilesEmitted := rfl
@[simp] theorem fill_store_slots (s : State) : (fill s).store.slots = s.store.slots := rfl
@[simp] theorem replyTo_store_slots (b : List Byte) (r : ResultCode) (ws : List Word) (s : State) : (replyTo b r ws s).store.slots = s.store.slots := rfl
@[simp] theorem storeReply_store_slots (c : Byte) (r : ResultCode) (ws : List Word) (s : State) : (storeReply c r ws s).store.slots = s.store.slots := rfl
@[simp] theorem fill_store_isProtected (s : State) : (fill s).store.isProtected = s.store.isProtected := rfl
@[simp] theorem replyTo_store_isProtected (b : List Byte) (r : ResultCode) (ws : List Word) (s : State) : (replyTo b r ws s).store.isProtected = s.store.isProtected := rfl
@[simp] theorem storeReply_store_isProtected (c : Byte) (r : ResultCode) (ws : List Word) (s : State) : (storeReply c r ws s).store.isProtected = s.store.isProtected := rfl
@[simp] theorem fill_store_defaultSlot (s : State) : (fill s).store.defaultSlot = s.store.defaultSlot := rfl
@[simp] theorem replyTo_store_defaultSlot (b : List Byte) (r : ResultCode) (ws : List Word) (s : State) : (replyTo b r ws s).store.defaultSlot = s.store.defaultSlot := rfl
@[simp] theorem storeReply_store_defaultSlot (c : Byte) (r : ResultCode) (ws : List Word) (s : State) : (storeReply c r ws s).store.defaultSlot = s.store.defaultSlot := rfl
@[simp] theorem fill_store_marker (s : State) : (fill s).store.marker = s.store.marker := rfl
@[simp] theorem replyTo_store_marker (b : List Byte) (r : ResultCode) (ws : List Word) (s : State) : (replyTo b r ws s).store.marker = s.store.marker := rfl
@[simp] theorem storeReply_store_marker (c : Byte) (r : ResultCode) (ws : List Word) (s : State) : (storeReply c r ws s).store.marker = s.store.marker := rfl
@[simp] theorem fill_store_tag (s : State) : (fill s).store.tag = s.store.tag := rfl
@[simp] theorem replyTo_store_tag (b : List Byte) (r : ResultCode) (ws : List Word) (s : State) : (replyTo b r ws s).store.tag = s.store.tag := rfl
@[simp] theorem storeReply_store_tag (c : Byte) (r : ResultCode) (ws : List Word) (s : State) : (storeReply c r ws s).store.tag = s.store.tag := rfl
@[simp] theorem fill_dirs_queue (s : State) : (fill s).dirs.queue = s.dirs.queue := rfl
@[simp] theorem replyTo_dirs_queue (b : List Byte) (r : ResultCode) (ws : List Word) (s : State) : (replyTo b r ws s).dirs.queue = s.dirs.queue := rfl
@[simp] theorem storeReply_dirs_queue (c : Byte) (r : ResultCode) (ws : List Word) (s : State) : (storeReply c r ws s).dirs.queue = s.dirs.queue := rfl
@[simp] theorem openTiles_ring_sealedQueue (lo hi : Int) (s : State) : (openTiles lo hi s).ring.sealedQueue = s.ring.sealedQueue := rfl
@[simp] theorem changeWriters_ring_sealedQueue (f : Nat → Nat) (lo hi : Nat) (s : State) : (changeWriters f lo hi s).ring.sealedQueue = s.ring.sealedQueue := rfl
@[simp] theorem placeFrame_ring_sealedQueue (i : Fin 3) (f : CapturedFrame) (o d : Point) (b : Nat) (e g : Int) (s : State) : (placeFrame i f o d b e g s).ring.sealedQueue = s.ring.sealedQueue := rfl
@[simp] theorem openTiles_ring_crop (lo hi : Int) (s : State) : (openTiles lo hi s).ring.crop = s.ring.crop := rfl
@[simp] theorem changeWriters_ring_crop (f : Nat → Nat) (lo hi : Nat) (s : State) : (changeWriters f lo hi s).ring.crop = s.ring.crop := rfl
@[simp] theorem placeFrame_ring_crop (i : Fin 3) (f : CapturedFrame) (o d : Point) (b : Nat) (e g : Int) (s : State) : (placeFrame i f o d b e g s).ring.crop = s.ring.crop := rfl
@[simp] theorem openTiles_ring_credits (lo hi : Int) (s : State) : (openTiles lo hi s).ring.credits = s.ring.credits := rfl
@[simp] theorem changeWriters_ring_credits (f : Nat → Nat) (lo hi : Nat) (s : State) : (changeWriters f lo hi s).ring.credits = s.ring.credits := rfl
@[simp] theorem placeFrame_ring_credits (i : Fin 3) (f : CapturedFrame) (o d : Point) (b : Nat) (e g : Int) (s : State) : (placeFrame i f o d b e g s).ring.credits = s.ring.credits := rfl
@[simp] theorem openTiles_ring_starved (lo hi : Int) (s : State) : (openTiles lo hi s).ring.starved = s.ring.starved := rfl
@[simp] theorem changeWriters_ring_starved (f : Nat → Nat) (lo hi : Nat) (s : State) : (changeWriters f lo hi s).ring.starved = s.ring.starved := rfl
@[simp] theorem placeFrame_ring_starved (i : Fin 3) (f : CapturedFrame) (o d : Point) (b : Nat) (e g : Int) (s : State) : (placeFrame i f o d b e g s).ring.starved = s.ring.starved := rfl
@[simp] theorem openTiles_ring_run (lo hi : Int) (s : State) : (openTiles lo hi s).ring.run = s.ring.run := rfl
@[simp] theorem changeWriters_ring_run (f : Nat → Nat) (lo hi : Nat) (s : State) : (changeWriters f lo hi s).ring.run = s.ring.run := rfl
@[simp] theorem placeFrame_ring_run (i : Fin 3) (f : CapturedFrame) (o d : Point) (b : Nat) (e g : Int) (s : State) : (placeFrame i f o d b e g s).ring.run = s.ring.run := rfl
@[simp] theorem startPacket_sending (c : Claimant) (p : Packet) (s : State) : (startPacket c p s).outlet.sending = some ⟨c, p, false⟩ := rfl
@[simp] theorem startPacket_lane (c : Claimant) (p : Packet) (s : State) : (startPacket c p s).outlet.lane = s.outlet.lane := rfl
@[simp] theorem popDirective_queue (s : State) : (popDirective s).dirs.queue = s.dirs.queue.tail := rfl
@[simp] theorem popDirective_replyWaiting (s : State) : (popDirective s).dirs.replyWaiting = s.dirs.replyWaiting := rfl
@[simp] theorem setFraming_framing (f : Framing) (n : Nat) (s : State) : (setFraming f n s).inlet.framing = f := rfl
@[simp] theorem receivePacket_framing (b : List Byte) (s : State) : (receivePacket b s).inlet.framing = .locked none := rfl
@[simp] theorem placeFrame_slots (i : Fin 3) (f : CapturedFrame) (o d : Point) (b : Nat) (e g : Int) (s : State) : (placeFrame i f o d b e g s).capture.slots = s.capture.slots.set i (some { f with state := .placed }) := rfl
@[simp] theorem placeFrame_order (i : Fin 3) (f : CapturedFrame) (o d : Point) (b : Nat) (e g : Int) (s : State) : (placeFrame i f o d b e g s).capture.order = s.capture.order := rfl
@[simp] theorem placeFrame_e (i : Fin 3) (f : CapturedFrame) (o d : Point) (b : Nat) (e g : Int) (s : State) : (placeFrame i f o d b e g s).placement.e = e := rfl
@[simp] theorem placeFrame_engine (i : Fin 3) (f : CapturedFrame) (o d : Point) (b : Nat) (e g : Int) (s : State) : (placeFrame i f o d b e g s).reg.engine = s.reg.engine := rfl
@[simp] theorem placeFrame_work (i : Fin 3) (f : CapturedFrame) (o d : Point) (b : Nat) (e g : Int) (s : State) : (placeFrame i f o d b e g s).reg.work = s.reg.work := rfl
@[simp] theorem placeFrame_writing (i : Fin 3) (f : CapturedFrame) (o d : Point) (b : Nat) (e g : Int) (s : State) : (placeFrame i f o d b e g s).comp.writing = s.comp.writing := rfl
@[simp] theorem setAssembly_columnMap (a : Option Assembly) (s : State) : (setAssembly a s).tables.columnMap = s.tables.columnMap := rfl
@[simp] theorem setAssembly_feather (a : Option Assembly) (s : State) : (setAssembly a s).tables.feather = s.tables.feather := rfl
@[simp] theorem setAssembly_gain (a : Option Assembly) (s : State) : (setAssembly a s).tables.gain = s.tables.gain := rfl
@[simp] theorem setAssembly_assembly (a : Option Assembly) (s : State) : (setAssembly a s).tables.assembly = a := rfl
@[simp] theorem setProfileSlot_slots (i : Fin 4) (p : ProfileSlot) (s : State) : (setProfileSlot i p s).store.slots = s.store.slots.set i p := rfl
@[simp] theorem beginOperation_marker (b : List Byte) (i : Fin 4) (o : ProfileOp) (s : State) : (beginOperation b i o s).store.marker = some ⟨i, o⟩ := rfl
@[simp] theorem beginOperation_busy (b : List Byte) (i : Fin 4) (o : ProfileOp) (s : State) : (beginOperation b i o s).store.busy = some o := rfl
@[simp] theorem beginOperation_slots (b : List Byte) (i : Fin 4) (o : ProfileOp) (s : State) : (beginOperation b i o s).store.slots = s.store.slots := rfl
@[simp] theorem clearMarker_marker (s : State) : (clearMarker s).store.marker = none := rfl
@[simp] theorem clearMarker_slots (s : State) : (clearMarker s).store.slots = s.store.slots := rfl
@[simp] theorem clearMarker_busy (s : State) : (clearMarker s).store.busy = s.store.busy := rfl

end Sys2Proof.Machine
end

