-- ==== Sys2Proof/Laws/Ops.lean ====
section
/-! SUPPORT. What the shared operations of Ops.lean and the capture unit leave unchanged, and what `event`, `arbitrate`, the notes
and the slots do: stated once, so that no proof unfolds them again. -/

namespace Sys2Proof.Machine

/-- A fold of an update that keeps a projection keeps it. -/
theorem foldl_keeps {α β : Type} (f : State → α → State) (g : State → β) (h : ∀ s a, g (f s a) = g s) :
    ∀ (l : List α) (s : State), g (l.foldl f s) = g s
  | [], _ => rfl
  | a :: l, s => (foldl_keeps f g h l (f s a)).trans (h s a)

/-! ### arbitrate -/

@[simp] theorem arbitrate_power (s : State) : (arbitrate s).power = s.power := by
  unfold arbitrate startTilePacket; repeat' (split <;> try rfl)
@[simp] theorem arbitrate_mode (s : State) : (arbitrate s).mode = s.mode := by
  unfold arbitrate startTilePacket; repeat' (split <;> try rfl)
@[simp] theorem arbitrate_holdLine (s : State) : (arbitrate s).holdLine = s.holdLine := by
  unfold arbitrate startTilePacket; repeat' (split <;> try rfl)
@[simp] theorem arbitrate_inlet (s : State) : (arbitrate s).inlet = s.inlet := by
  unfold arbitrate startTilePacket; repeat' (split <;> try rfl)
@[simp] theorem arbitrate_forward (s : State) : (arbitrate s).forward = s.forward := by
  unfold arbitrate startTilePacket; repeat' (split <;> try rfl)
@[simp] theorem arbitrate_capture (s : State) : (arbitrate s).capture = s.capture := by
  unfold arbitrate startTilePacket; repeat' (split <;> try rfl)
@[simp] theorem arbitrate_reg (s : State) : (arbitrate s).reg = s.reg := by
  unfold arbitrate startTilePacket; repeat' (split <;> try rfl)
@[simp] theorem arbitrate_placement (s : State) : (arbitrate s).placement = s.placement := by
  unfold arbitrate startTilePacket; repeat' (split <;> try rfl)
@[simp] theorem arbitrate_comp (s : State) : (arbitrate s).comp = s.comp := by
  unfold arbitrate startTilePacket; repeat' (split <;> try rfl)
@[simp] theorem arbitrate_ring (s : State) : (arbitrate s).ring = s.ring := by
  unfold arbitrate startTilePacket; repeat' (split <;> try rfl)
@[simp] theorem arbitrate_dirs (s : State) : (arbitrate s).dirs = s.dirs := by
  unfold arbitrate startTilePacket; repeat' (split <;> try rfl)
@[simp] theorem arbitrate_notes (s : State) : (arbitrate s).notes = s.notes := by
  unfold arbitrate startTilePacket; repeat' (split <;> try rfl)
@[simp] theorem arbitrate_counters (s : State) : (arbitrate s).counters = s.counters := by
  unfold arbitrate startTilePacket; repeat' (split <;> try rfl)
@[simp] theorem arbitrate_tables (s : State) : (arbitrate s).tables = s.tables := by
  unfold arbitrate startTilePacket; repeat' (split <;> try rfl)
@[simp] theorem arbitrate_store (s : State) : (arbitrate s).store = s.store := by
  unfold arbitrate startTilePacket; repeat' (split <;> try rfl)
@[simp] theorem arbitrate_freeIndex (s : State) : (arbitrate s).freeIndex = s.freeIndex := by
  unfold arbitrate startTilePacket; repeat' (split <;> try rfl)
@[simp] theorem arbitrate_pending (s : State) : (arbitrate s).pending = s.pending := by
  unfold arbitrate startTilePacket; repeat' (split <;> try rfl)
@[simp] theorem arbitrate_sweep_state (s : State) : (arbitrate s).sweep.state = s.sweep.state := by
  unfold arbitrate startTilePacket; repeat' (split <;> try rfl)
@[simp] theorem arbitrate_sweep_cause (s : State) : (arbitrate s).sweep.cause = s.sweep.cause := by
  unfold arbitrate startTilePacket; repeat' (split <;> try rfl)
@[simp] theorem arbitrate_sweep_id (s : State) : (arbitrate s).sweep.id = s.sweep.id := by
  unfold arbitrate startTilePacket; repeat' (split <;> try rfl)
@[simp] theorem arbitrate_sweep_params (s : State) : (arbitrate s).sweep.params = s.sweep.params := by
  unfold arbitrate startTilePacket; repeat' (split <;> try rfl)
@[simp] theorem arbitrate_sweep_hc (s : State) : (arbitrate s).sweep.hc = s.sweep.hc := by
  unfold arbitrate startTilePacket; repeat' (split <;> try rfl)
@[simp] theorem arbitrate_sweep_coast (s : State) : (arbitrate s).sweep.coast = s.sweep.coast := by
  unfold arbitrate startTilePacket; repeat' (split <;> try rfl)
@[simp] theorem arbitrate_sweep_framesComposited (s : State) : (arbitrate s).sweep.framesComposited = s.sweep.framesComposited := by
  unfold arbitrate startTilePacket; repeat' (split <;> try rfl)
@[simp] theorem arbitrate_outlet_lane (s : State) : (arbitrate s).outlet.lane = s.outlet.lane := by
  unfold arbitrate startTilePacket; repeat' (split <;> try rfl)

/-! ### discardSlot -/

@[simp] theorem discardSlot_power (s : State) (i : Fin 3) : (discardSlot s i).power = s.power := by
  unfold discardSlot; split <;> rfl
@[simp] theorem discardSlot_mode (s : State) (i : Fin 3) : (discardSlot s i).mode = s.mode := by
  unfold discardSlot; split <;> rfl
@[simp] theorem discardSlot_holdLine (s : State) (i : Fin 3) : (discardSlot s i).holdLine = s.holdLine := by
  unfold discardSlot; split <;> rfl
@[simp] theorem discardSlot_inlet (s : State) (i : Fin 3) : (discardSlot s i).inlet = s.inlet := by
  unfold discardSlot; split <;> rfl
@[simp] theorem discardSlot_forward (s : State) (i : Fin 3) : (discardSlot s i).forward = s.forward := by
  unfold discardSlot; split <;> rfl
@[simp] theorem discardSlot_outlet (s : State) (i : Fin 3) : (discardSlot s i).outlet = s.outlet := by
  unfold discardSlot; split <;> rfl
@[simp] theorem discardSlot_reg (s : State) (i : Fin 3) : (discardSlot s i).reg = s.reg := by
  unfold discardSlot; split <;> rfl
@[simp] theorem discardSlot_placement (s : State) (i : Fin 3) : (discardSlot s i).placement = s.placement := by
  unfold discardSlot; split <;> rfl
@[simp] theorem discardSlot_comp (s : State) (i : Fin 3) : (discardSlot s i).comp = s.comp := by
  unfold discardSlot; split <;> rfl
@[simp] theorem discardSlot_ring (s : State) (i : Fin 3) : (discardSlot s i).ring = s.ring := by
  unfold discardSlot; split <;> rfl
@[simp] theorem discardSlot_sweep (s : State) (i : Fin 3) : (discardSlot s i).sweep = s.sweep := by
  unfold discardSlot; split <;> rfl
@[simp] theorem discardSlot_dirs (s : State) (i : Fin 3) : (discardSlot s i).dirs = s.dirs := by
  unfold discardSlot; split <;> rfl
@[simp] theorem discardSlot_tables (s : State) (i : Fin 3) : (discardSlot s i).tables = s.tables := by
  unfold discardSlot; split <;> rfl
@[simp] theorem discardSlot_store (s : State) (i : Fin 3) : (discardSlot s i).store = s.store := by
  unfold discardSlot; split <;> rfl
@[simp] theorem discardSlot_freeIndex (s : State) (i : Fin 3) : (discardSlot s i).freeIndex = s.freeIndex := by
  unfold discardSlot; split <;> rfl
@[simp] theorem discardSlot_pending (s : State) (i : Fin 3) : (discardSlot s i).pending = s.pending := by
  unfold discardSlot; split <;> rfl
@[simp] theorem discardSlot_capture_seq (s : State) (i : Fin 3) : (discardSlot s i).capture.seq = s.capture.seq := by
  unfold discardSlot; split <;> rfl
@[simp] theorem discardSlot_capture_sumX (s : State) (i : Fin 3) : (discardSlot s i).capture.sumX = s.capture.sumX := by
  unfold discardSlot; split <;> rfl
@[simp] theorem discardSlot_capture_sumY (s : State) (i : Fin 3) : (discardSlot s i).capture.sumY = s.capture.sumY := by
  unfold discardSlot; split <;> rfl
@[simp] theorem discardSlot_capture_broken (s : State) (i : Fin 3) : (discardSlot s i).capture.broken = s.capture.broken := by
  unfold discardSlot; split <;> rfl

/-! ### discardCaptured -/

@[simp] theorem discardCaptured_power (s : State) : (discardCaptured s).power = s.power := foldl_keeps discardSlot (·.power) discardSlot_power _ s
@[simp] theorem discardCaptured_mode (s : State) : (discardCaptured s).mode = s.mode := foldl_keeps discardSlot (·.mode) discardSlot_mode _ s
@[simp] theorem discardCaptured_holdLine (s : State) : (discardCaptured s).holdLine = s.holdLine := foldl_keeps discardSlot (·.holdLine) discardSlot_holdLine _ s
@[simp] theorem discardCaptured_inlet (s : State) : (discardCaptured s).inlet = s.inlet := foldl_keeps discardSlot (·.inlet) discardSlot_inlet _ s
@[simp] theorem discardCaptured_forward (s : State) : (discardCaptured s).forward = s.forward := foldl_keeps discardSlot (·.forward) discardSlot_forward _ s
@[simp] theorem discardCaptured_outlet (s : State) : (discardCaptured s).outlet = s.outlet := foldl_keeps discardSlot (·.outlet) discardSlot_outlet _ s
@[simp] theorem discardCaptured_reg (s : State) : (discardCaptured s).reg = s.reg := foldl_keeps discardSlot (·.reg) discardSlot_reg _ s
@[simp] theorem discardCaptured_placement (s : State) : (discardCaptured s).placement = s.placement := foldl_keeps discardSlot (·.placement) discardSlot_placement _ s
@[simp] theorem discardCaptured_comp (s : State) : (discardCaptured s).comp = s.comp := foldl_keeps discardSlot (·.comp) discardSlot_comp _ s
@[simp] theorem discardCaptured_ring (s : State) : (discardCaptured s).ring = s.ring := foldl_keeps discardSlot (·.ring) discardSlot_ring _ s
@[simp] theorem discardCaptured_sweep (s : State) : (discardCaptured s).sweep = s.sweep := foldl_keeps discardSlot (·.sweep) discardSlot_sweep _ s
@[simp] theorem discardCaptured_dirs (s : State) : (discardCaptured s).dirs = s.dirs := foldl_keeps discardSlot (·.dirs) discardSlot_dirs _ s
@[simp] theorem discardCaptured_tables (s : State) : (discardCaptured s).tables = s.tables := foldl_keeps discardSlot (·.tables) discardSlot_tables _ s
@[simp] theorem discardCaptured_store (s : State) : (discardCaptured s).store = s.store := foldl_keeps discardSlot (·.store) discardSlot_store _ s
@[simp] theorem discardCaptured_freeIndex (s : State) : (discardCaptured s).freeIndex = s.freeIndex := foldl_keeps discardSlot (·.freeIndex) discardSlot_freeIndex _ s
@[simp] theorem discardCaptured_pending (s : State) : (discardCaptured s).pending = s.pending := foldl_keeps discardSlot (·.pending) discardSlot_pending _ s
@[simp] theorem discardCaptured_capture_seq (s : State) : (discardCaptured s).capture.seq = s.capture.seq :=
  foldl_keeps discardSlot (·.capture.seq) discardSlot_capture_seq _ s
@[simp] theorem discardCaptured_capture_sumX (s : State) : (discardCaptured s).capture.sumX = s.capture.sumX :=
  foldl_keeps discardSlot (·.capture.sumX) discardSlot_capture_sumX _ s
@[simp] theorem discardCaptured_capture_sumY (s : State) : (discardCaptured s).capture.sumY = s.capture.sumY :=
  foldl_keeps discardSlot (·.capture.sumY) discardSlot_capture_sumY _ s
@[simp] theorem discardCaptured_capture_broken (s : State) : (discardCaptured s).capture.broken = s.capture.broken :=
  foldl_keeps discardSlot (·.capture.broken) discardSlot_capture_broken _ s

/-! ### beginStarvation -/

@[simp] theorem beginStarvation_power (s : State) : (beginStarvation s).power = s.power := by
  unfold beginStarvation; split <;> rfl
@[simp] theorem beginStarvation_mode (s : State) : (beginStarvation s).mode = s.mode := by
  unfold beginStarvation; split <;> rfl
@[simp] theorem beginStarvation_holdLine (s : State) : (beginStarvation s).holdLine = s.holdLine := by
  unfold beginStarvation; split <;> rfl
@[simp] theorem beginStarvation_inlet (s : State) : (beginStarvation s).inlet = s.inlet := by
  unfold beginStarvation; split <;> rfl
@[simp] theorem beginStarvation_forward (s : State) : (beginStarvation s).forward = s.forward := by
  unfold beginStarvation; split <;> rfl
@[simp] theorem beginStarvation_outlet (s : State) : (beginStarvation s).outlet = s.outlet := by
  unfold beginStarvation; split <;> rfl
@[simp] theorem beginStarvation_capture (s : State) : (beginStarvation s).capture = s.capture := by
  unfold beginStarvation; split <;> rfl
@[simp] theorem beginStarvation_reg (s : State) : (beginStarvation s).reg = s.reg := by
  unfold beginStarvation; split <;> rfl
@[simp] theorem beginStarvation_placement (s : State) : (beginStarvation s).placement = s.placement := by
  unfold beginStarvation; split <;> rfl
@[simp] theorem beginStarvation_comp (s : State) : (beginStarvation s).comp = s.comp := by
  unfold beginStarvation; split <;> rfl
@[simp] theorem beginStarvation_sweep (s : State) : (beginStarvation s).sweep = s.sweep := by
  unfold beginStarvation; split <;> rfl
@[simp] theorem beginStarvation_dirs (s : State) : (beginStarvation s).dirs = s.dirs := by
  unfold beginStarvation; split <;> rfl
@[simp] theorem beginStarvation_counters (s : State) : (beginStarvation s).counters = s.counters := by
  unfold beginStarvation; split <;> rfl
@[simp] theorem beginStarvation_tables (s : State) : (beginStarvation s).tables = s.tables := by
  unfold beginStarvation; split <;> rfl
@[simp] theorem beginStarvation_store (s : State) : (beginStarvation s).store = s.store := by
  unfold beginStarvation; split <;> rfl
@[simp] theorem beginStarvation_freeIndex (s : State) : (beginStarvation s).freeIndex = s.freeIndex := by
  unfold beginStarvation; split <;> rfl
@[simp] theorem beginStarvation_pending (s : State) : (beginStarvation s).pending = s.pending := by
  unfold beginStarvation; split <;> rfl
@[simp] theorem beginStarvation_ring_credits (s : State) : (beginStarvation s).ring.credits = s.ring.credits := by
  unfold beginStarvation; split <;> rfl
@[simp] theorem beginStarvation_ring_run (s : State) : (beginStarvation s).ring.run = s.ring.run := by
  unfold beginStarvation; split <;> rfl
@[simp] theorem beginStarvation_ring_tiles (s : State) : (beginStarvation s).ring.tiles = s.ring.tiles := by
  unfold beginStarvation; split <;> rfl
@[simp] theorem beginStarvation_ring_sealedQueue (s : State) : (beginStarvation s).ring.sealedQueue = s.ring.sealedQueue := by
  unfold beginStarvation; split <;> rfl
@[simp] theorem beginStarvation_ring_crop (s : State) : (beginStarvation s).ring.crop = s.ring.crop := by
  unfold beginStarvation; split <;> rfl

/-! ### sealTile -/

@[simp] theorem sealTile_power (s : State) (t : Tile) : (sealTile s t).power = s.power := by
  unfold sealTile; dsimp only; split <;> simp
@[simp] theorem sealTile_mode (s : State) (t : Tile) : (sealTile s t).mode = s.mode := by
  unfold sealTile; dsimp only; split <;> simp
@[simp] theorem sealTile_holdLine (s : State) (t : Tile) : (sealTile s t).holdLine = s.holdLine := by
  unfold sealTile; dsimp only; split <;> simp
@[simp] theorem sealTile_inlet (s : State) (t : Tile) : (sealTile s t).inlet = s.inlet := by
  unfold sealTile; dsimp only; split <;> simp
@[simp] theorem sealTile_forward (s : State) (t : Tile) : (sealTile s t).forward = s.forward := by
  unfold sealTile; dsimp only; split <;> simp
@[simp] theorem sealTile_outlet (s : State) (t : Tile) : (sealTile s t).outlet = s.outlet := by
  unfold sealTile; dsimp only; split <;> simp
@[simp] theorem sealTile_capture (s : State) (t : Tile) : (sealTile s t).capture = s.capture := by
  unfold sealTile; dsimp only; split <;> simp
@[simp] theorem sealTile_reg (s : State) (t : Tile) : (sealTile s t).reg = s.reg := by
  unfold sealTile; dsimp only; split <;> simp
@[simp] theorem sealTile_placement (s : State) (t : Tile) : (sealTile s t).placement = s.placement := by
  unfold sealTile; dsimp only; split <;> simp
@[simp] theorem sealTile_comp (s : State) (t : Tile) : (sealTile s t).comp = s.comp := by
  unfold sealTile; dsimp only; split <;> simp
@[simp] theorem sealTile_sweep (s : State) (t : Tile) : (sealTile s t).sweep = s.sweep := by
  unfold sealTile; dsimp only; split <;> simp
@[simp] theorem sealTile_dirs (s : State) (t : Tile) : (sealTile s t).dirs = s.dirs := by
  unfold sealTile; dsimp only; split <;> simp
@[simp] theorem sealTile_counters (s : State) (t : Tile) : (sealTile s t).counters = s.counters := by
  unfold sealTile; dsimp only; split <;> simp
@[simp] theorem sealTile_tables (s : State) (t : Tile) : (sealTile s t).tables = s.tables := by
  unfold sealTile; dsimp only; split <;> simp
@[simp] theorem sealTile_store (s : State) (t : Tile) : (sealTile s t).store = s.store := by
  unfold sealTile; dsimp only; split <;> simp
@[simp] theorem sealTile_freeIndex (s : State) (t : Tile) : (sealTile s t).freeIndex = s.freeIndex := by
  unfold sealTile; dsimp only; split <;> simp
@[simp] theorem sealTile_pending (s : State) (t : Tile) : (sealTile s t).pending = s.pending := by
  unfold sealTile; dsimp only; split <;> simp
@[simp] theorem sealTile_ring_credits (s : State) (t : Tile) : (sealTile s t).ring.credits = s.ring.credits := by
  unfold sealTile; dsimp only; split <;> simp
@[simp] theorem sealTile_ring_run (s : State) (t : Tile) : (sealTile s t).ring.run = s.ring.run := by
  unfold sealTile; dsimp only; split <;> simp

/-! ### examineTiles -/

@[simp] theorem examineTiles_power (s : State) : (examineTiles s).power = s.power := foldl_keeps sealTile (·.power) sealTile_power _ s
@[simp] theorem examineTiles_mode (s : State) : (examineTiles s).mode = s.mode := foldl_keeps sealTile (·.mode) sealTile_mode _ s
@[simp] theorem examineTiles_holdLine (s : State) : (examineTiles s).holdLine = s.holdLine := foldl_keeps sealTile (·.holdLine) sealTile_holdLine _ s
@[simp] theorem examineTiles_inlet (s : State) : (examineTiles s).inlet = s.inlet := foldl_keeps sealTile (·.inlet) sealTile_inlet _ s
@[simp] theorem examineTiles_forward (s : State) : (examineTiles s).forward = s.forward := foldl_keeps sealTile (·.forward) sealTile_forward _ s
@[simp] theorem examineTiles_outlet (s : State) : (examineTiles s).outlet = s.outlet := foldl_keeps sealTile (·.outlet) sealTile_outlet _ s
@[simp] theorem examineTiles_capture (s : State) : (examineTiles s).capture = s.capture := foldl_keeps sealTile (·.capture) sealTile_capture _ s
@[simp] theorem examineTiles_reg (s : State) : (examineTiles s).reg = s.reg := foldl_keeps sealTile (·.reg) sealTile_reg _ s
@[simp] theorem examineTiles_placement (s : State) : (examineTiles s).placement = s.placement := foldl_keeps sealTile (·.placement) sealTile_placement _ s
@[simp] theorem examineTiles_comp (s : State) : (examineTiles s).comp = s.comp := foldl_keeps sealTile (·.comp) sealTile_comp _ s
@[simp] theorem examineTiles_sweep (s : State) : (examineTiles s).sweep = s.sweep := foldl_keeps sealTile (·.sweep) sealTile_sweep _ s
@[simp] theorem examineTiles_dirs (s : State) : (examineTiles s).dirs = s.dirs := foldl_keeps sealTile (·.dirs) sealTile_dirs _ s
@[simp] theorem examineTiles_counters (s : State) : (examineTiles s).counters = s.counters := foldl_keeps sealTile (·.counters) sealTile_counters _ s
@[simp] theorem examineTiles_tables (s : State) : (examineTiles s).tables = s.tables := foldl_keeps sealTile (·.tables) sealTile_tables _ s
@[simp] theorem examineTiles_store (s : State) : (examineTiles s).store = s.store := foldl_keeps sealTile (·.store) sealTile_store _ s
@[simp] theorem examineTiles_freeIndex (s : State) : (examineTiles s).freeIndex = s.freeIndex := foldl_keeps sealTile (·.freeIndex) sealTile_freeIndex _ s
@[simp] theorem examineTiles_pending (s : State) : (examineTiles s).pending = s.pending := foldl_keeps sealTile (·.pending) sealTile_pending _ s
@[simp] theorem examineTiles_ring_credits (s : State) : (examineTiles s).ring.credits = s.ring.credits :=
  foldl_keeps sealTile (·.ring.credits) sealTile_ring_credits _ s
@[simp] theorem examineTiles_ring_run (s : State) : (examineTiles s).ring.run = s.ring.run :=
  foldl_keeps sealTile (·.ring.run) sealTile_ring_run _ s

/-! ### testDrain -/

@[simp] theorem testDrain_power (s : State) : (testDrain s).power = s.power := by
  unfold testDrain; split <;> rfl
@[simp] theorem testDrain_mode (s : State) : (testDrain s).mode = s.mode := by
  unfold testDrain; split <;> rfl
@[simp] theorem testDrain_holdLine (s : State) : (testDrain s).holdLine = s.holdLine := by
  unfold testDrain; split <;> rfl
@[simp] theorem testDrain_inlet (s : State) : (testDrain s).inlet = s.inlet := by
  unfold testDrain; split <;> rfl
@[simp] theorem testDrain_forward (s : State) : (testDrain s).forward = s.forward := by
  unfold testDrain; split <;> rfl
@[simp] theorem testDrain_outlet (s : State) : (testDrain s).outlet = s.outlet := by
  unfold testDrain; split <;> rfl
@[simp] theorem testDrain_capture (s : State) : (testDrain s).capture = s.capture := by
  unfold testDrain; split <;> rfl
@[simp] theorem testDrain_reg (s : State) : (testDrain s).reg = s.reg := by
  unfold testDrain; split <;> rfl
@[simp] theorem testDrain_placement (s : State) : (testDrain s).placement = s.placement := by
  unfold testDrain; split <;> rfl
@[simp] theorem testDrain_comp (s : State) : (testDrain s).comp = s.comp := by
  unfold testDrain; split <;> rfl
@[simp] theorem testDrain_ring (s : State) : (testDrain s).ring = s.ring := by
  unfold testDrain; split <;> rfl
@[simp] theorem testDrain_dirs (s : State) : (testDrain s).dirs = s.dirs := by
  unfold testDrain; split <;> rfl
@[simp] theorem testDrain_counters (s : State) : (testDrain s).counters = s.counters := by
  unfold testDrain; split <;> rfl
@[simp] theorem testDrain_tables (s : State) : (testDrain s).tables = s.tables := by
  unfold testDrain; split <;> rfl
@[simp] theorem testDrain_store (s : State) : (testDrain s).store = s.store := by
  unfold testDrain; split <;> rfl
@[simp] theorem testDrain_freeIndex (s : State) : (testDrain s).freeIndex = s.freeIndex := by
  unfold testDrain; split <;> rfl
@[simp] theorem testDrain_pending (s : State) : (testDrain s).pending = s.pending := by
  unfold testDrain; split <;> rfl
@[simp] theorem testDrain_sweep_cause (s : State) : (testDrain s).sweep.cause = s.sweep.cause := by
  unfold testDrain; split <;> rfl
@[simp] theorem testDrain_sweep_id (s : State) : (testDrain s).sweep.id = s.sweep.id := by
  unfold testDrain; split <;> rfl
@[simp] theorem testDrain_sweep_params (s : State) : (testDrain s).sweep.params = s.sweep.params := by
  unfold testDrain; split <;> rfl
@[simp] theorem testDrain_sweep_hc (s : State) : (testDrain s).sweep.hc = s.sweep.hc := by
  unfold testDrain; split <;> rfl
@[simp] theorem testDrain_sweep_coast (s : State) : (testDrain s).sweep.coast = s.sweep.coast := by
  unfold testDrain; split <;> rfl
@[simp] theorem testDrain_sweep_framesComposited (s : State) : (testDrain s).sweep.framesComposited = s.sweep.framesComposited := by
  unfold testDrain; split <;> rfl
@[simp] theorem testDrain_sweep_tilesEmitted (s : State) : (testDrain s).sweep.tilesEmitted = s.sweep.tilesEmitted := by
  unfold testDrain; split <;> rfl

/-! ### enterDraining -/

@[simp] theorem enterDraining_power (c : EndCause) (s : State) : (enterDraining c s).power = s.power := by
  simp [enterDraining]
@[simp] theorem enterDraining_mode (c : EndCause) (s : State) : (enterDraining c s).mode = s.mode := by
  simp [enterDraining]
@[simp] theorem enterDraining_holdLine (c : EndCause) (s : State) : (enterDraining c s).holdLine = s.holdLine := by
  simp [enterDraining]
@[simp] theorem enterDraining_inlet (c : EndCause) (s : State) : (enterDraining c s).inlet = s.inlet := by
  simp [enterDraining]
@[simp] theorem enterDraining_forward (c : EndCause) (s : State) : (enterDraining c s).forward = s.forward := by
  simp [enterDraining]
@[simp] theorem enterDraining_outlet (c : EndCause) (s : State) : (enterDraining c s).outlet = s.outlet := by
  simp [enterDraining]
@[simp] theorem enterDraining_reg (c : EndCause) (s : State) : (enterDraining c s).reg = s.reg := by
  simp [enterDraining]
@[simp] theorem enterDraining_placement (c : EndCause) (s : State) : (enterDraining c s).placement = s.placement := by
  simp [enterDraining]
@[simp] theorem enterDraining_comp (c : EndCause) (s : State) : (enterDraining c s).comp = s.comp := by
  simp [enterDraining]
@[simp] theorem enterDraining_dirs (c : EndCause) (s : State) : (enterDraining c s).dirs = s.dirs := by
  simp [enterDraining]
@[simp] theorem enterDraining_tables (c : EndCause) (s : State) : (enterDraining c s).tables = s.tables := by
  simp [enterDraining]
@[simp] theorem enterDraining_store (c : EndCause) (s : State) : (enterDraining c s).store = s.store := by
  simp [enterDraining]
@[simp] theorem enterDraining_freeIndex (c : EndCause) (s : State) : (enterDraining c s).freeIndex = s.freeIndex := by
  simp [enterDraining]
@[simp] theorem enterDraining_pending (c : EndCause) (s : State) : (enterDraining c s).pending = s.pending := by
  simp [enterDraining]
@[simp] theorem enterDraining_capture_seq (c : EndCause) (s : State) : (enterDraining c s).capture.seq = s.capture.seq := by
  simp [enterDraining]
@[simp] theorem enterDraining_capture_sumX (c : EndCause) (s : State) : (enterDraining c s).capture.sumX = s.capture.sumX := by
  simp [enterDraining]
@[simp] theorem enterDraining_capture_sumY (c : EndCause) (s : State) : (enterDraining c s).capture.sumY = s.capture.sumY := by
  simp [enterDraining]
@[simp] theorem enterDraining_capture_broken (c : EndCause) (s : State) : (enterDraining c s).capture.broken = s.capture.broken := by
  simp [enterDraining]
@[simp] theorem enterDraining_ring_credits (c : EndCause) (s : State) : (enterDraining c s).ring.credits = s.ring.credits := by
  simp [enterDraining]
@[simp] theorem enterDraining_ring_run (c : EndCause) (s : State) : (enterDraining c s).ring.run = s.ring.run := by
  simp [enterDraining]
@[simp] theorem enterDraining_sweep_id (c : EndCause) (s : State) : (enterDraining c s).sweep.id = s.sweep.id := by
  simp [enterDraining]
@[simp] theorem enterDraining_sweep_params (c : EndCause) (s : State) : (enterDraining c s).sweep.params = s.sweep.params := by
  simp [enterDraining]
@[simp] theorem enterDraining_sweep_hc (c : EndCause) (s : State) : (enterDraining c s).sweep.hc = s.sweep.hc := by
  simp [enterDraining]
@[simp] theorem enterDraining_sweep_tilesEmitted (c : EndCause) (s : State) : (enterDraining c s).sweep.tilesEmitted = s.sweep.tilesEmitted := by
  simp [enterDraining]

/-! ### followCoast -/

@[simp] theorem followCoast_power (o : FrameOutcome) (e : CoastEffect) (s : State) : (followCoast o e s).power = s.power := by
  unfold followCoast; repeat' (split <;> try simp)
@[simp] theorem followCoast_mode (o : FrameOutcome) (e : CoastEffect) (s : State) : (followCoast o e s).mode = s.mode := by
  unfold followCoast; repeat' (split <;> try simp)
@[simp] theorem followCoast_holdLine (o : FrameOutcome) (e : CoastEffect) (s : State) : (followCoast o e s).holdLine = s.holdLine := by
  unfold followCoast; repeat' (split <;> try simp)
@[simp] theorem followCoast_inlet (o : FrameOutcome) (e : CoastEffect) (s : State) : (followCoast o e s).inlet = s.inlet := by
  unfold followCoast; repeat' (split <;> try simp)
@[simp] theorem followCoast_forward (o : FrameOutcome) (e : CoastEffect) (s : State) : (followCoast o e s).forward = s.forward := by
  unfold followCoast; repeat' (split <;> try simp)
@[simp] theorem followCoast_outlet (o : FrameOutcome) (e : CoastEffect) (s : State) : (followCoast o e s).outlet = s.outlet := by
  unfold followCoast; repeat' (split <;> try simp)
@[simp] theorem followCoast_reg (o : FrameOutcome) (e : CoastEffect) (s : State) : (followCoast o e s).reg = s.reg := by
  unfold followCoast; repeat' (split <;> try simp)
@[simp] theorem followCoast_placement (o : FrameOutcome) (e : CoastEffect) (s : State) : (followCoast o e s).placement = s.placement := by
  unfold followCoast; repeat' (split <;> try simp)
@[simp] theorem followCoast_comp (o : FrameOutcome) (e : CoastEffect) (s : State) : (followCoast o e s).comp = s.comp := by
  unfold followCoast; repeat' (split <;> try simp)
@[simp] theorem followCoast_dirs (o : FrameOutcome) (e : CoastEffect) (s : State) : (followCoast o e s).dirs = s.dirs := by
  unfold followCoast; repeat' (split <;> try simp)
@[simp] theorem followCoast_tables (o : FrameOutcome) (e : CoastEffect) (s : State) : (followCoast o e s).tables = s.tables := by
  unfold followCoast; repeat' (split <;> try simp)
@[simp] theorem followCoast_store (o : FrameOutcome) (e : CoastEffect) (s : State) : (followCoast o e s).store = s.store := by
  unfold followCoast; repeat' (split <;> try simp)
@[simp] theorem followCoast_freeIndex (o : FrameOutcome) (e : CoastEffect) (s : State) : (followCoast o e s).freeIndex = s.freeIndex := by
  unfold followCoast; repeat' (split <;> try simp)
@[simp] theorem followCoast_pending (o : FrameOutcome) (e : CoastEffect) (s : State) : (followCoast o e s).pending = s.pending := by
  unfold followCoast; repeat' (split <;> try simp)
@[simp] theorem followCoast_capture_seq (o : FrameOutcome) (e : CoastEffect) (s : State) : (followCoast o e s).capture.seq = s.capture.seq := by
  unfold followCoast; repeat' (split <;> try simp)
@[simp] theorem followCoast_capture_sumX (o : FrameOutcome) (e : CoastEffect) (s : State) : (followCoast o e s).capture.sumX = s.capture.sumX := by
  unfold followCoast; repeat' (split <;> try simp)
@[simp] theorem followCoast_capture_sumY (o : FrameOutcome) (e : CoastEffect) (s : State) : (followCoast o e s).capture.sumY = s.capture.sumY := by
  unfold followCoast; repeat' (split <;> try simp)
@[simp] theorem followCoast_capture_broken (o : FrameOutcome) (e : CoastEffect) (s : State) : (followCoast o e s).capture.broken = s.capture.broken := by
  unfold followCoast; repeat' (split <;> try simp)
@[simp] theorem followCoast_ring_credits (o : FrameOutcome) (e : CoastEffect) (s : State) : (followCoast o e s).ring.credits = s.ring.credits := by
  unfold followCoast; repeat' (split <;> try simp)
@[simp] theorem followCoast_ring_run (o : FrameOutcome) (e : CoastEffect) (s : State) : (followCoast o e s).ring.run = s.ring.run := by
  unfold followCoast; repeat' (split <;> try simp)
@[simp] theorem followCoast_sweep_id (o : FrameOutcome) (e : CoastEffect) (s : State) : (followCoast o e s).sweep.id = s.sweep.id := by
  unfold followCoast; repeat' (split <;> try simp)
@[simp] theorem followCoast_sweep_params (o : FrameOutcome) (e : CoastEffect) (s : State) : (followCoast o e s).sweep.params = s.sweep.params := by
  unfold followCoast; repeat' (split <;> try simp)
@[simp] theorem followCoast_sweep_hc (o : FrameOutcome) (e : CoastEffect) (s : State) : (followCoast o e s).sweep.hc = s.sweep.hc := by
  unfold followCoast; repeat' (split <;> try simp)
@[simp] theorem followCoast_sweep_tilesEmitted (o : FrameOutcome) (e : CoastEffect) (s : State) : (followCoast o e s).sweep.tilesEmitted = s.sweep.tilesEmitted := by
  unfold followCoast; repeat' (split <;> try simp)

/-! ### decideOutcome -/

@[simp] theorem decideOutcome_power (r : OutcomeRecord) (s : State) : (decideOutcome r s).power = s.power := by
  simp [decideOutcome]
@[simp] theorem decideOutcome_mode (r : OutcomeRecord) (s : State) : (decideOutcome r s).mode = s.mode := by
  simp [decideOutcome]
@[simp] theorem decideOutcome_holdLine (r : OutcomeRecord) (s : State) : (decideOutcome r s).holdLine = s.holdLine := by
  simp [decideOutcome]
@[simp] theorem decideOutcome_inlet (r : OutcomeRecord) (s : State) : (decideOutcome r s).inlet = s.inlet := by
  simp [decideOutcome]
@[simp] theorem decideOutcome_forward (r : OutcomeRecord) (s : State) : (decideOutcome r s).forward = s.forward := by
  simp [decideOutcome]
@[simp] theorem decideOutcome_outlet (r : OutcomeRecord) (s : State) : (decideOutcome r s).outlet = s.outlet := by
  simp [decideOutcome]
@[simp] theorem decideOutcome_reg (r : OutcomeRecord) (s : State) : (decideOutcome r s).reg = s.reg := by
  simp [decideOutcome]
@[simp] theorem decideOutcome_placement (r : OutcomeRecord) (s : State) : (decideOutcome r s).placement = s.placement := by
  simp [decideOutcome]
@[simp] theorem decideOutcome_comp (r : OutcomeRecord) (s : State) : (decideOutcome r s).comp = s.comp := by
  simp [decideOutcome]
@[simp] theorem decideOutcome_dirs (r : OutcomeRecord) (s : State) : (decideOutcome r s).dirs = s.dirs := by
  simp [decideOutcome]
@[simp] theorem decideOutcome_tables (r : OutcomeRecord) (s : State) : (decideOutcome r s).tables = s.tables := by
  simp [decideOutcome]
@[simp] theorem decideOutcome_store (r : OutcomeRecord) (s : State) : (decideOutcome r s).store = s.store := by
  simp [decideOutcome]
@[simp] theorem decideOutcome_freeIndex (r : OutcomeRecord) (s : State) : (decideOutcome r s).freeIndex = s.freeIndex := by
  simp [decideOutcome]
@[simp] theorem decideOutcome_pending (r : OutcomeRecord) (s : State) : (decideOutcome r s).pending = s.pending := by
  simp [decideOutcome]
@[simp] theorem decideOutcome_capture_seq (r : OutcomeRecord) (s : State) : (decideOutcome r s).capture.seq = s.capture.seq := by
  simp [decideOutcome]
@[simp] theorem decideOutcome_capture_sumX (r : OutcomeRecord) (s : State) : (decideOutcome r s).capture.sumX = s.capture.sumX := by
  simp [decideOutcome]
@[simp] theorem decideOutcome_capture_sumY (r : OutcomeRecord) (s : State) : (decideOutcome r s).capture.sumY = s.capture.sumY := by
  simp [decideOutcome]
@[simp] theorem decideOutcome_capture_broken (r : OutcomeRecord) (s : State) : (decideOutcome r s).capture.broken = s.capture.broken := by
  simp [decideOutcome]
@[simp] theorem decideOutcome_ring_credits (r : OutcomeRecord) (s : State) : (decideOutcome r s).ring.credits = s.ring.credits := by
  simp [decideOutcome]
@[simp] theorem decideOutcome_ring_run (r : OutcomeRecord) (s : State) : (decideOutcome r s).ring.run = s.ring.run := by
  simp [decideOutcome]
@[simp] theorem decideOutcome_sweep_id (r : OutcomeRecord) (s : State) : (decideOutcome r s).sweep.id = s.sweep.id := by
  simp [decideOutcome]
@[simp] theorem decideOutcome_sweep_params (r : OutcomeRecord) (s : State) : (decideOutcome r s).sweep.params = s.sweep.params := by
  simp [decideOutcome]
@[simp] theorem decideOutcome_sweep_hc (r : OutcomeRecord) (s : State) : (decideOutcome r s).sweep.hc = s.sweep.hc := by
  simp [decideOutcome]
@[simp] theorem decideOutcome_sweep_tilesEmitted (r : OutcomeRecord) (s : State) : (decideOutcome r s).sweep.tilesEmitted = s.sweep.tilesEmitted := by
  simp [decideOutcome]

/-! ### takeWidthLimit -/

@[simp] theorem takeWidthLimit_power (s : State) : (takeWidthLimit s).power = s.power := by
  unfold takeWidthLimit; split <;> simp
@[simp] theorem takeWidthLimit_mode (s : State) : (takeWidthLimit s).mode = s.mode := by
  unfold takeWidthLimit; split <;> simp
@[simp] theorem takeWidthLimit_holdLine (s : State) : (takeWidthLimit s).holdLine = s.holdLine := by
  unfold takeWidthLimit; split <;> simp
@[simp] theorem takeWidthLimit_inlet (s : State) : (takeWidthLimit s).inlet = s.inlet := by
  unfold takeWidthLimit; split <;> simp
@[simp] theorem takeWidthLimit_forward (s : State) : (takeWidthLimit s).forward = s.forward := by
  unfold takeWidthLimit; split <;> simp
@[simp] theorem takeWidthLimit_outlet (s : State) : (takeWidthLimit s).outlet = s.outlet := by
  unfold takeWidthLimit; split <;> simp
@[simp] theorem takeWidthLimit_reg (s : State) : (takeWidthLimit s).reg = s.reg := by
  unfold takeWidthLimit; split <;> simp
@[simp] theorem takeWidthLimit_placement (s : State) : (takeWidthLimit s).placement = s.placement := by
  unfold takeWidthLimit; split <;> simp
@[simp] theorem takeWidthLimit_comp (s : State) : (takeWidthLimit s).comp = s.comp := by
  unfold takeWidthLimit; split <;> simp
@[simp] theorem takeWidthLimit_dirs (s : State) : (takeWidthLimit s).dirs = s.dirs := by
  unfold takeWidthLimit; split <;> simp
@[simp] theorem takeWidthLimit_tables (s : State) : (takeWidthLimit s).tables = s.tables := by
  unfold takeWidthLimit; split <;> simp
@[simp] theorem takeWidthLimit_store (s : State) : (takeWidthLimit s).store = s.store := by
  unfold takeWidthLimit; split <;> simp
@[simp] theorem takeWidthLimit_freeIndex (s : State) : (takeWidthLimit s).freeIndex = s.freeIndex := by
  unfold takeWidthLimit; split <;> simp
@[simp] theorem takeWidthLimit_pending (s : State) : (takeWidthLimit s).pending = s.pending := by
  unfold takeWidthLimit; split <;> simp
@[simp] theorem takeWidthLimit_capture_seq (s : State) : (takeWidthLimit s).capture.seq = s.capture.seq := by
  unfold takeWidthLimit; split <;> simp
@[simp] theorem takeWidthLimit_capture_sumX (s : State) : (takeWidthLimit s).capture.sumX = s.capture.sumX := by
  unfold takeWidthLimit; split <;> simp
@[simp] theorem takeWidthLimit_capture_sumY (s : State) : (takeWidthLimit s).capture.sumY = s.capture.sumY := by
  unfold takeWidthLimit; split <;> simp
@[simp] theorem takeWidthLimit_capture_broken (s : State) : (takeWidthLimit s).capture.broken = s.capture.broken := by
  unfold takeWidthLimit; split <;> simp
@[simp] theorem takeWidthLimit_ring_credits (s : State) : (takeWidthLimit s).ring.credits = s.ring.credits := by
  unfold takeWidthLimit; split <;> simp
@[simp] theorem takeWidthLimit_ring_run (s : State) : (takeWidthLimit s).ring.run = s.ring.run := by
  unfold takeWidthLimit; split <;> simp
@[simp] theorem takeWidthLimit_sweep_id (s : State) : (takeWidthLimit s).sweep.id = s.sweep.id := by
  unfold takeWidthLimit; split <;> simp
@[simp] theorem takeWidthLimit_sweep_params (s : State) : (takeWidthLimit s).sweep.params = s.sweep.params := by
  unfold takeWidthLimit; split <;> simp
@[simp] theorem takeWidthLimit_sweep_hc (s : State) : (takeWidthLimit s).sweep.hc = s.sweep.hc := by
  unfold takeWidthLimit; split <;> simp
@[simp] theorem takeWidthLimit_sweep_tilesEmitted (s : State) : (takeWidthLimit s).sweep.tilesEmitted = s.sweep.tilesEmitted := by
  unfold takeWidthLimit; split <;> simp

/-! ### settleRun -/

@[simp] theorem settleRun_power (s : State) : (settleRun s).power = s.power := by
  unfold settleRun; repeat' (split <;> try rfl)
@[simp] theorem settleRun_mode (s : State) : (settleRun s).mode = s.mode := by
  unfold settleRun; repeat' (split <;> try rfl)
@[simp] theorem settleRun_holdLine (s : State) : (settleRun s).holdLine = s.holdLine := by
  unfold settleRun; repeat' (split <;> try rfl)
@[simp] theorem settleRun_inlet (s : State) : (settleRun s).inlet = s.inlet := by
  unfold settleRun; repeat' (split <;> try rfl)
@[simp] theorem settleRun_forward (s : State) : (settleRun s).forward = s.forward := by
  unfold settleRun; repeat' (split <;> try rfl)
@[simp] theorem settleRun_outlet (s : State) : (settleRun s).outlet = s.outlet := by
  unfold settleRun; repeat' (split <;> try rfl)
@[simp] theorem settleRun_capture (s : State) : (settleRun s).capture = s.capture := by
  unfold settleRun; repeat' (split <;> try rfl)
@[simp] theorem settleRun_reg (s : State) : (settleRun s).reg = s.reg := by
  unfold settleRun; repeat' (split <;> try rfl)
@[simp] theorem settleRun_placement (s : State) : (settleRun s).placement = s.placement := by
  unfold settleRun; repeat' (split <;> try rfl)
@[simp] theorem settleRun_comp (s : State) : (settleRun s).comp = s.comp := by
  unfold settleRun; repeat' (split <;> try rfl)
@[simp] theorem settleRun_sweep (s : State) : (settleRun s).sweep = s.sweep := by
  unfold settleRun; repeat' (split <;> try rfl)
@[simp] theorem settleRun_dirs (s : State) : (settleRun s).dirs = s.dirs := by
  unfold settleRun; repeat' (split <;> try rfl)
@[simp] theorem settleRun_notes (s : State) : (settleRun s).notes = s.notes := by
  unfold settleRun; repeat' (split <;> try rfl)
@[simp] theorem settleRun_counters (s : State) : (settleRun s).counters = s.counters := by
  unfold settleRun; repeat' (split <;> try rfl)
@[simp] theorem settleRun_tables (s : State) : (settleRun s).tables = s.tables := by
  unfold settleRun; repeat' (split <;> try rfl)
@[simp] theorem settleRun_store (s : State) : (settleRun s).store = s.store := by
  unfold settleRun; repeat' (split <;> try rfl)
@[simp] theorem settleRun_freeIndex (s : State) : (settleRun s).freeIndex = s.freeIndex := by
  unfold settleRun; repeat' (split <;> try rfl)
@[simp] theorem settleRun_pending (s : State) : (settleRun s).pending = s.pending := by
  unfold settleRun; repeat' (split <;> try rfl)

/-! ### emptyRing -/

@[simp] theorem emptyRing_power (s : State) : (emptyRing s).power = s.power := by
  simp [emptyRing]
@[simp] theorem emptyRing_mode (s : State) : (emptyRing s).mode = s.mode := by
  simp [emptyRing]
@[simp] theorem emptyRing_holdLine (s : State) : (emptyRing s).holdLine = s.holdLine := by
  simp [emptyRing]
@[simp] theorem emptyRing_inlet (s : State) : (emptyRing s).inlet = s.inlet := by
  simp [emptyRing]
@[simp] theorem emptyRing_forward (s : State) : (emptyRing s).forward = s.forward := by
  simp [emptyRing]
@[simp] theorem emptyRing_outlet (s : State) : (emptyRing s).outlet = s.outlet := by
  simp [emptyRing]
@[simp] theorem emptyRing_capture (s : State) : (emptyRing s).capture = s.capture := by
  simp [emptyRing]
@[simp] theorem emptyRing_reg (s : State) : (emptyRing s).reg = s.reg := by
  simp [emptyRing]
@[simp] theorem emptyRing_placement (s : State) : (emptyRing s).placement = s.placement := by
  simp [emptyRing]
@[simp] theorem emptyRing_comp (s : State) : (emptyRing s).comp = s.comp := by
  simp [emptyRing]
@[simp] theorem emptyRing_sweep (s : State) : (emptyRing s).sweep = s.sweep := by
  simp [emptyRing]
@[simp] theorem emptyRing_dirs (s : State) : (emptyRing s).dirs = s.dirs := by
  simp [emptyRing]
@[simp] theorem emptyRing_notes (s : State) : (emptyRing s).notes = s.notes := by
  simp [emptyRing]
@[simp] theorem emptyRing_counters (s : State) : (emptyRing s).counters = s.counters := by
  simp [emptyRing]
@[simp] theorem emptyRing_tables (s : State) : (emptyRing s).tables = s.tables := by
  simp [emptyRing]
@[simp] theorem emptyRing_store (s : State) : (emptyRing s).store = s.store := by
  simp [emptyRing]
@[simp] theorem emptyRing_freeIndex (s : State) : (emptyRing s).freeIndex = s.freeIndex := by
  simp [emptyRing]
@[simp] theorem emptyRing_pending (s : State) : (emptyRing s).pending = s.pending := by
  simp [emptyRing]

/-! ### damageFrame -/

@[simp] theorem damageFrame_power (i : Fin 3) (s : State) : (damageFrame i s).power = s.power := by
  unfold damageFrame; split <;> simp
@[simp] theorem damageFrame_mode (i : Fin 3) (s : State) : (damageFrame i s).mode = s.mode := by
  unfold damageFrame; split <;> simp
@[simp] theorem damageFrame_holdLine (i : Fin 3) (s : State) : (damageFrame i s).holdLine = s.holdLine := by
  unfold damageFrame; split <;> simp
@[simp] theorem damageFrame_inlet (i : Fin 3) (s : State) : (damageFrame i s).inlet = s.inlet := by
  unfold damageFrame; split <;> simp
@[simp] theorem damageFrame_forward (i : Fin 3) (s : State) : (damageFrame i s).forward = s.forward := by
  unfold damageFrame; split <;> simp
@[simp] theorem damageFrame_outlet (i : Fin 3) (s : State) : (damageFrame i s).outlet = s.outlet := by
  unfold damageFrame; split <;> simp
@[simp] theorem damageFrame_reg (i : Fin 3) (s : State) : (damageFrame i s).reg = s.reg := by
  unfold damageFrame; split <;> simp
@[simp] theorem damageFrame_placement (i : Fin 3) (s : State) : (damageFrame i s).placement = s.placement := by
  unfold damageFrame; split <;> simp
@[simp] theorem damageFrame_comp (i : Fin 3) (s : State) : (damageFrame i s).comp = s.comp := by
  unfold damageFrame; split <;> simp
@[simp] theorem damageFrame_dirs (i : Fin 3) (s : State) : (damageFrame i s).dirs = s.dirs := by
  unfold damageFrame; split <;> simp
@[simp] theorem damageFrame_tables (i : Fin 3) (s : State) : (damageFrame i s).tables = s.tables := by
  unfold damageFrame; split <;> simp
@[simp] theorem damageFrame_store (i : Fin 3) (s : State) : (damageFrame i s).store = s.store := by
  unfold damageFrame; split <;> simp
@[simp] theorem damageFrame_freeIndex (i : Fin 3) (s : State) : (damageFrame i s).freeIndex = s.freeIndex := by
  unfold damageFrame; split <;> simp
@[simp] theorem damageFrame_pending (i : Fin 3) (s : State) : (damageFrame i s).pending = s.pending := by
  unfold damageFrame; split <;> simp
@[simp] theorem damageFrame_capture_seq (i : Fin 3) (s : State) : (damageFrame i s).capture.seq = s.capture.seq := by
  unfold damageFrame; split <;> simp
@[simp] theorem damageFrame_capture_sumX (i : Fin 3) (s : State) : (damageFrame i s).capture.sumX = s.capture.sumX := by
  unfold damageFrame; split <;> simp
@[simp] theorem damageFrame_capture_sumY (i : Fin 3) (s : State) : (damageFrame i s).capture.sumY = s.capture.sumY := by
  unfold damageFrame; split <;> simp
@[simp] theorem damageFrame_capture_broken (i : Fin 3) (s : State) : (damageFrame i s).capture.broken = s.capture.broken := by
  unfold damageFrame; split <;> simp
@[simp] theorem damageFrame_ring_credits (i : Fin 3) (s : State) : (damageFrame i s).ring.credits = s.ring.credits := by
  unfold damageFrame; split <;> simp
@[simp] theorem damageFrame_ring_run (i : Fin 3) (s : State) : (damageFrame i s).ring.run = s.ring.run := by
  unfold damageFrame; split <;> simp
@[simp] theorem damageFrame_sweep_id (i : Fin 3) (s : State) : (damageFrame i s).sweep.id = s.sweep.id := by
  unfold damageFrame; split <;> simp
@[simp] theorem damageFrame_sweep_params (i : Fin 3) (s : State) : (damageFrame i s).sweep.params = s.sweep.params := by
  unfold damageFrame; split <;> simp
@[simp] theorem damageFrame_sweep_hc (i : Fin 3) (s : State) : (damageFrame i s).sweep.hc = s.sweep.hc := by
  unfold damageFrame; split <;> simp
@[simp] theorem damageFrame_sweep_tilesEmitted (i : Fin 3) (s : State) : (damageFrame i s).sweep.tilesEmitted = s.sweep.tilesEmitted := by
  unfold damageFrame; split <;> simp

/-! ### damageFilling -/

@[simp] theorem damageFilling_power (s : State) : (damageFilling s).power = s.power := by
  unfold damageFilling; split <;> simp
@[simp] theorem damageFilling_mode (s : State) : (damageFilling s).mode = s.mode := by
  unfold damageFilling; split <;> simp
@[simp] theorem damageFilling_holdLine (s : State) : (damageFilling s).holdLine = s.holdLine := by
  unfold damageFilling; split <;> simp
@[simp] theorem damageFilling_inlet (s : State) : (damageFilling s).inlet = s.inlet := by
  unfold damageFilling; split <;> simp
@[simp] theorem damageFilling_forward (s : State) : (damageFilling s).forward = s.forward := by
  unfold damageFilling; split <;> simp
@[simp] theorem damageFilling_outlet (s : State) : (damageFilling s).outlet = s.outlet := by
  unfold damageFilling; split <;> simp
@[simp] theorem damageFilling_reg (s : State) : (damageFilling s).reg = s.reg := by
  unfold damageFilling; split <;> simp
@[simp] theorem damageFilling_placement (s : State) : (damageFilling s).placement = s.placement := by
  unfold damageFilling; split <;> simp
@[simp] theorem damageFilling_comp (s : State) : (damageFilling s).comp = s.comp := by
  unfold damageFilling; split <;> simp
@[simp] theorem damageFilling_dirs (s : State) : (damageFilling s).dirs = s.dirs := by
  unfold damageFilling; split <;> simp
@[simp] theorem damageFilling_tables (s : State) : (damageFilling s).tables = s.tables := by
  unfold damageFilling; split <;> simp
@[simp] theorem damageFilling_store (s : State) : (damageFilling s).store = s.store := by
  unfold damageFilling; split <;> simp
@[simp] theorem damageFilling_freeIndex (s : State) : (damageFilling s).freeIndex = s.freeIndex := by
  unfold damageFilling; split <;> simp
@[simp] theorem damageFilling_pending (s : State) : (damageFilling s).pending = s.pending := by
  unfold damageFilling; split <;> simp
@[simp] theorem damageFilling_capture_seq (s : State) : (damageFilling s).capture.seq = s.capture.seq := by
  unfold damageFilling; split <;> simp
@[simp] theorem damageFilling_capture_sumX (s : State) : (damageFilling s).capture.sumX = s.capture.sumX := by
  unfold damageFilling; split <;> simp
@[simp] theorem damageFilling_capture_sumY (s : State) : (damageFilling s).capture.sumY = s.capture.sumY := by
  unfold damageFilling; split <;> simp
@[simp] theorem damageFilling_capture_broken (s : State) : (damageFilling s).capture.broken = s.capture.broken := by
  unfold damageFilling; split <;> simp
@[simp] theorem damageFilling_ring_credits (s : State) : (damageFilling s).ring.credits = s.ring.credits := by
  unfold damageFilling; split <;> simp
@[simp] theorem damageFilling_ring_run (s : State) : (damageFilling s).ring.run = s.ring.run := by
  unfold damageFilling; split <;> simp
@[simp] theorem damageFilling_sweep_id (s : State) : (damageFilling s).sweep.id = s.sweep.id := by
  unfold damageFilling; split <;> simp
@[simp] theorem damageFilling_sweep_params (s : State) : (damageFilling s).sweep.params = s.sweep.params := by
  unfold damageFilling; split <;> simp
@[simp] theorem damageFilling_sweep_hc (s : State) : (damageFilling s).sweep.hc = s.sweep.hc := by
  unfold damageFilling; split <;> simp
@[simp] theorem damageFilling_sweep_tilesEmitted (s : State) : (damageFilling s).sweep.tilesEmitted = s.sweep.tilesEmitted := by
  unfold damageFilling; split <;> simp

/-! ### geometryOutcome -/

@[simp] theorem geometryOutcome_power (s : State) : (geometryOutcome s).power = s.power := by
  unfold geometryOutcome; dsimp only; split <;> simp
@[simp] theorem geometryOutcome_mode (s : State) : (geometryOutcome s).mode = s.mode := by
  unfold geometryOutcome; dsimp only; split <;> simp
@[simp] theorem geometryOutcome_holdLine (s : State) : (geometryOutcome s).holdLine = s.holdLine := by
  unfold geometryOutcome; dsimp only; split <;> simp
@[simp] theorem geometryOutcome_inlet (s : State) : (geometryOutcome s).inlet = s.inlet := by
  unfold geometryOutcome; dsimp only; split <;> simp
@[simp] theorem geometryOutcome_forward (s : State) : (geometryOutcome s).forward = s.forward := by
  unfold geometryOutcome; dsimp only; split <;> simp
@[simp] theorem geometryOutcome_outlet (s : State) : (geometryOutcome s).outlet = s.outlet := by
  unfold geometryOutcome; dsimp only; split <;> simp
@[simp] theorem geometryOutcome_reg (s : State) : (geometryOutcome s).reg = s.reg := by
  unfold geometryOutcome; dsimp only; split <;> simp
@[simp] theorem geometryOutcome_placement (s : State) : (geometryOutcome s).placement = s.placement := by
  unfold geometryOutcome; dsimp only; split <;> simp
@[simp] theorem geometryOutcome_comp (s : State) : (geometryOutcome s).comp = s.comp := by
  unfold geometryOutcome; dsimp only; split <;> simp
@[simp] theorem geometryOutcome_dirs (s : State) : (geometryOutcome s).dirs = s.dirs := by
  unfold geometryOutcome; dsimp only; split <;> simp
@[simp] theorem geometryOutcome_tables (s : State) : (geometryOutcome s).tables = s.tables := by
  unfold geometryOutcome; dsimp only; split <;> simp
@[simp] theorem geometryOutcome_store (s : State) : (geometryOutcome s).store = s.store := by
  unfold geometryOutcome; dsimp only; split <;> simp
@[simp] theorem geometryOutcome_freeIndex (s : State) : (geometryOutcome s).freeIndex = s.freeIndex := by
  unfold geometryOutcome; dsimp only; split <;> simp
@[simp] theorem geometryOutcome_pending (s : State) : (geometryOutcome s).pending = s.pending := by
  unfold geometryOutcome; dsimp only; split <;> simp
@[simp] theorem geometryOutcome_capture_seq (s : State) : (geometryOutcome s).capture.seq = s.capture.seq := by
  unfold geometryOutcome; dsimp only; split <;> simp
@[simp] theorem geometryOutcome_capture_sumX (s : State) : (geometryOutcome s).capture.sumX = s.capture.sumX := by
  unfold geometryOutcome; dsimp only; split <;> simp
@[simp] theorem geometryOutcome_capture_sumY (s : State) : (geometryOutcome s).capture.sumY = s.capture.sumY := by
  unfold geometryOutcome; dsimp only; split <;> simp
@[simp] theorem geometryOutcome_capture_broken (s : State) : (geometryOutcome s).capture.broken = s.capture.broken := by
  unfold geometryOutcome; dsimp only; split <;> simp
@[simp] theorem geometryOutcome_ring_credits (s : State) : (geometryOutcome s).ring.credits = s.ring.credits := by
  unfold geometryOutcome; dsimp only; split <;> simp
@[simp] theorem geometryOutcome_ring_run (s : State) : (geometryOutcome s).ring.run = s.ring.run := by
  unfold geometryOutcome; dsimp only; split <;> simp
@[simp] theorem geometryOutcome_sweep_id (s : State) : (geometryOutcome s).sweep.id = s.sweep.id := by
  unfold geometryOutcome; dsimp only; split <;> simp
@[simp] theorem geometryOutcome_sweep_params (s : State) : (geometryOutcome s).sweep.params = s.sweep.params := by
  unfold geometryOutcome; dsimp only; split <;> simp
@[simp] theorem geometryOutcome_sweep_hc (s : State) : (geometryOutcome s).sweep.hc = s.sweep.hc := by
  unfold geometryOutcome; dsimp only; split <;> simp
@[simp] theorem geometryOutcome_sweep_tilesEmitted (s : State) : (geometryOutcome s).sweep.tilesEmitted = s.sweep.tilesEmitted := by
  unfold geometryOutcome; dsimp only; split <;> simp

/-! ### captureOpen -/

@[simp] theorem captureOpen_power (f : OpenFields) (s : State) : (captureOpen f s).power = s.power := by
  unfold captureOpen; repeat' (split <;> try simp)
@[simp] theorem captureOpen_mode (f : OpenFields) (s : State) : (captureOpen f s).mode = s.mode := by
  unfold captureOpen; repeat' (split <;> try simp)
@[simp] theorem captureOpen_holdLine (f : OpenFields) (s : State) : (captureOpen f s).holdLine = s.holdLine := by
  unfold captureOpen; repeat' (split <;> try simp)
@[simp] theorem captureOpen_inlet (f : OpenFields) (s : State) : (captureOpen f s).inlet = s.inlet := by
  unfold captureOpen; repeat' (split <;> try simp)
@[simp] theorem captureOpen_forward (f : OpenFields) (s : State) : (captureOpen f s).forward = s.forward := by
  unfold captureOpen; repeat' (split <;> try simp)
@[simp] theorem captureOpen_outlet (f : OpenFields) (s : State) : (captureOpen f s).outlet = s.outlet := by
  unfold captureOpen; repeat' (split <;> try simp)
@[simp] theorem captureOpen_reg (f : OpenFields) (s : State) : (captureOpen f s).reg = s.reg := by
  unfold captureOpen; repeat' (split <;> try simp)
@[simp] theorem captureOpen_placement (f : OpenFields) (s : State) : (captureOpen f s).placement = s.placement := by
  unfold captureOpen; repeat' (split <;> try simp)
@[simp] theorem captureOpen_comp (f : OpenFields) (s : State) : (captureOpen f s).comp = s.comp := by
  unfold captureOpen; repeat' (split <;> try simp)
@[simp] theorem captureOpen_dirs (f : OpenFields) (s : State) : (captureOpen f s).dirs = s.dirs := by
  unfold captureOpen; repeat' (split <;> try simp)
@[simp] theorem captureOpen_tables (f : OpenFields) (s : State) : (captureOpen f s).tables = s.tables := by
  unfold captureOpen; repeat' (split <;> try simp)
@[simp] theorem captureOpen_store (f : OpenFields) (s : State) : (captureOpen f s).store = s.store := by
  unfold captureOpen; repeat' (split <;> try simp)
@[simp] theorem captureOpen_freeIndex (f : OpenFields) (s : State) : (captureOpen f s).freeIndex = s.freeIndex := by
  unfold captureOpen; repeat' (split <;> try simp)
@[simp] theorem captureOpen_pending (f : OpenFields) (s : State) : (captureOpen f s).pending = s.pending := by
  unfold captureOpen; repeat' (split <;> try simp)

/-! ### captureOpenPacket -/

@[simp] theorem captureOpenPacket_power (b : List Byte) (s : State) : (captureOpenPacket b s).power = s.power := by
  unfold captureOpenPacket; dsimp only; split <;> simp
@[simp] theorem captureOpenPacket_mode (b : List Byte) (s : State) : (captureOpenPacket b s).mode = s.mode := by
  unfold captureOpenPacket; dsimp only; split <;> simp
@[simp] theorem captureOpenPacket_holdLine (b : List Byte) (s : State) : (captureOpenPacket b s).holdLine = s.holdLine := by
  unfold captureOpenPacket; dsimp only; split <;> simp
@[simp] theorem captureOpenPacket_inlet (b : List Byte) (s : State) : (captureOpenPacket b s).inlet = s.inlet := by
  unfold captureOpenPacket; dsimp only; split <;> simp
@[simp] theorem captureOpenPacket_forward (b : List Byte) (s : State) : (captureOpenPacket b s).forward = s.forward := by
  unfold captureOpenPacket; dsimp only; split <;> simp
@[simp] theorem captureOpenPacket_outlet (b : List Byte) (s : State) : (captureOpenPacket b s).outlet = s.outlet := by
  unfold captureOpenPacket; dsimp only; split <;> simp
@[simp] theorem captureOpenPacket_reg (b : List Byte) (s : State) : (captureOpenPacket b s).reg = s.reg := by
  unfold captureOpenPacket; dsimp only; split <;> simp
@[simp] theorem captureOpenPacket_placement (b : List Byte) (s : State) : (captureOpenPacket b s).placement = s.placement := by
  unfold captureOpenPacket; dsimp only; split <;> simp
@[simp] theorem captureOpenPacket_comp (b : List Byte) (s : State) : (captureOpenPacket b s).comp = s.comp := by
  unfold captureOpenPacket; dsimp only; split <;> simp
@[simp] theorem captureOpenPacket_dirs (b : List Byte) (s : State) : (captureOpenPacket b s).dirs = s.dirs := by
  unfold captureOpenPacket; dsimp only; split <;> simp
@[simp] theorem captureOpenPacket_tables (b : List Byte) (s : State) : (captureOpenPacket b s).tables = s.tables := by
  unfold captureOpenPacket; dsimp only; split <;> simp
@[simp] theorem captureOpenPacket_store (b : List Byte) (s : State) : (captureOpenPacket b s).store = s.store := by
  unfold captureOpenPacket; dsimp only; split <;> simp
@[simp] theorem captureOpenPacket_freeIndex (b : List Byte) (s : State) : (captureOpenPacket b s).freeIndex = s.freeIndex := by
  unfold captureOpenPacket; dsimp only; split <;> simp
@[simp] theorem captureOpenPacket_pending (b : List Byte) (s : State) : (captureOpenPacket b s).pending = s.pending := by
  unfold captureOpenPacket; dsimp only; split <;> simp

/-! ### captureLine -/

@[simp] theorem captureLine_power (i : Fin 3) (f : CapturedFrame) (b : List Byte) (s : State) : (captureLine i f b s).power = s.power := by
  unfold captureLine; dsimp only; repeat' (split <;> try simp)
@[simp] theorem captureLine_mode (i : Fin 3) (f : CapturedFrame) (b : List Byte) (s : State) : (captureLine i f b s).mode = s.mode := by
  unfold captureLine; dsimp only; repeat' (split <;> try simp)
@[simp] theorem captureLine_holdLine (i : Fin 3) (f : CapturedFrame) (b : List Byte) (s : State) : (captureLine i f b s).holdLine = s.holdLine := by
  unfold captureLine; dsimp only; repeat' (split <;> try simp)
@[simp] theorem captureLine_inlet (i : Fin 3) (f : CapturedFrame) (b : List Byte) (s : State) : (captureLine i f b s).inlet = s.inlet := by
  unfold captureLine; dsimp only; repeat' (split <;> try simp)
@[simp] theorem captureLine_forward (i : Fin 3) (f : CapturedFrame) (b : List Byte) (s : State) : (captureLine i f b s).forward = s.forward := by
  unfold captureLine; dsimp only; repeat' (split <;> try simp)
@[simp] theorem captureLine_outlet (i : Fin 3) (f : CapturedFrame) (b : List Byte) (s : State) : (captureLine i f b s).outlet = s.outlet := by
  unfold captureLine; dsimp only; repeat' (split <;> try simp)
@[simp] theorem captureLine_reg (i : Fin 3) (f : CapturedFrame) (b : List Byte) (s : State) : (captureLine i f b s).reg = s.reg := by
  unfold captureLine; dsimp only; repeat' (split <;> try simp)
@[simp] theorem captureLine_placement (i : Fin 3) (f : CapturedFrame) (b : List Byte) (s : State) : (captureLine i f b s).placement = s.placement := by
  unfold captureLine; dsimp only; repeat' (split <;> try simp)
@[simp] theorem captureLine_comp (i : Fin 3) (f : CapturedFrame) (b : List Byte) (s : State) : (captureLine i f b s).comp = s.comp := by
  unfold captureLine; dsimp only; repeat' (split <;> try simp)
@[simp] theorem captureLine_dirs (i : Fin 3) (f : CapturedFrame) (b : List Byte) (s : State) : (captureLine i f b s).dirs = s.dirs := by
  unfold captureLine; dsimp only; repeat' (split <;> try simp)
@[simp] theorem captureLine_tables (i : Fin 3) (f : CapturedFrame) (b : List Byte) (s : State) : (captureLine i f b s).tables = s.tables := by
  unfold captureLine; dsimp only; repeat' (split <;> try simp)
@[simp] theorem captureLine_store (i : Fin 3) (f : CapturedFrame) (b : List Byte) (s : State) : (captureLine i f b s).store = s.store := by
  unfold captureLine; dsimp only; repeat' (split <;> try simp)
@[simp] theorem captureLine_freeIndex (i : Fin 3) (f : CapturedFrame) (b : List Byte) (s : State) : (captureLine i f b s).freeIndex = s.freeIndex := by
  unfold captureLine; dsimp only; repeat' (split <;> try simp)
@[simp] theorem captureLine_pending (i : Fin 3) (f : CapturedFrame) (b : List Byte) (s : State) : (captureLine i f b s).pending = s.pending := by
  unfold captureLine; dsimp only; repeat' (split <;> try simp)

/-! ### captureLinePacket -/

@[simp] theorem captureLinePacket_power (b : List Byte) (s : State) : (captureLinePacket b s).power = s.power := by
  unfold captureLinePacket; repeat' (split <;> try simp)
@[simp] theorem captureLinePacket_mode (b : List Byte) (s : State) : (captureLinePacket b s).mode = s.mode := by
  unfold captureLinePacket; repeat' (split <;> try simp)
@[simp] theorem captureLinePacket_holdLine (b : List Byte) (s : State) : (captureLinePacket b s).holdLine = s.holdLine := by
  unfold captureLinePacket; repeat' (split <;> try simp)
@[simp] theorem captureLinePacket_inlet (b : List Byte) (s : State) : (captureLinePacket b s).inlet = s.inlet := by
  unfold captureLinePacket; repeat' (split <;> try simp)
@[simp] theorem captureLinePacket_forward (b : List Byte) (s : State) : (captureLinePacket b s).forward = s.forward := by
  unfold captureLinePacket; repeat' (split <;> try simp)
@[simp] theorem captureLinePacket_outlet (b : List Byte) (s : State) : (captureLinePacket b s).outlet = s.outlet := by
  unfold captureLinePacket; repeat' (split <;> try simp)
@[simp] theorem captureLinePacket_reg (b : List Byte) (s : State) : (captureLinePacket b s).reg = s.reg := by
  unfold captureLinePacket; repeat' (split <;> try simp)
@[simp] theorem captureLinePacket_placement (b : List Byte) (s : State) : (captureLinePacket b s).placement = s.placement := by
  unfold captureLinePacket; repeat' (split <;> try simp)
@[simp] theorem captureLinePacket_comp (b : List Byte) (s : State) : (captureLinePacket b s).comp = s.comp := by
  unfold captureLinePacket; repeat' (split <;> try simp)
@[simp] theorem captureLinePacket_dirs (b : List Byte) (s : State) : (captureLinePacket b s).dirs = s.dirs := by
  unfold captureLinePacket; repeat' (split <;> try simp)
@[simp] theorem captureLinePacket_tables (b : List Byte) (s : State) : (captureLinePacket b s).tables = s.tables := by
  unfold captureLinePacket; repeat' (split <;> try simp)
@[simp] theorem captureLinePacket_store (b : List Byte) (s : State) : (captureLinePacket b s).store = s.store := by
  unfold captureLinePacket; repeat' (split <;> try simp)
@[simp] theorem captureLinePacket_freeIndex (b : List Byte) (s : State) : (captureLinePacket b s).freeIndex = s.freeIndex := by
  unfold captureLinePacket; repeat' (split <;> try simp)
@[simp] theorem captureLinePacket_pending (b : List Byte) (s : State) : (captureLinePacket b s).pending = s.pending := by
  unfold captureLinePacket; repeat' (split <;> try simp)

/-! ### captureShut -/

@[simp] theorem captureShut_power (i : Fin 3) (f : CapturedFrame) (s : State) : (captureShut i f s).power = s.power := by
  unfold captureShut; dsimp only; split <;> simp
@[simp] theorem captureShut_mode (i : Fin 3) (f : CapturedFrame) (s : State) : (captureShut i f s).mode = s.mode := by
  unfold captureShut; dsimp only; split <;> simp
@[simp] theorem captureShut_holdLine (i : Fin 3) (f : CapturedFrame) (s : State) : (captureShut i f s).holdLine = s.holdLine := by
  unfold captureShut; dsimp only; split <;> simp
@[simp] theorem captureShut_inlet (i : Fin 3) (f : CapturedFrame) (s : State) : (captureShut i f s).inlet = s.inlet := by
  unfold captureShut; dsimp only; split <;> simp
@[simp] theorem captureShut_forward (i : Fin 3) (f : CapturedFrame) (s : State) : (captureShut i f s).forward = s.forward := by
  unfold captureShut; dsimp only; split <;> simp
@[simp] theorem captureShut_outlet (i : Fin 3) (f : CapturedFrame) (s : State) : (captureShut i f s).outlet = s.outlet := by
  unfold captureShut; dsimp only; split <;> simp
@[simp] theorem captureShut_reg (i : Fin 3) (f : CapturedFrame) (s : State) : (captureShut i f s).reg = s.reg := by
  unfold captureShut; dsimp only; split <;> simp
@[simp] theorem captureShut_placement (i : Fin 3) (f : CapturedFrame) (s : State) : (captureShut i f s).placement = s.placement := by
  unfold captureShut; dsimp only; split <;> simp
@[simp] theorem captureShut_comp (i : Fin 3) (f : CapturedFrame) (s : State) : (captureShut i f s).comp = s.comp := by
  unfold captureShut; dsimp only; split <;> simp
@[simp] theorem captureShut_dirs (i : Fin 3) (f : CapturedFrame) (s : State) : (captureShut i f s).dirs = s.dirs := by
  unfold captureShut; dsimp only; split <;> simp
@[simp] theorem captureShut_tables (i : Fin 3) (f : CapturedFrame) (s : State) : (captureShut i f s).tables = s.tables := by
  unfold captureShut; dsimp only; split <;> simp
@[simp] theorem captureShut_store (i : Fin 3) (f : CapturedFrame) (s : State) : (captureShut i f s).store = s.store := by
  unfold captureShut; dsimp only; split <;> simp
@[simp] theorem captureShut_freeIndex (i : Fin 3) (f : CapturedFrame) (s : State) : (captureShut i f s).freeIndex = s.freeIndex := by
  unfold captureShut; dsimp only; split <;> simp
@[simp] theorem captureShut_pending (i : Fin 3) (f : CapturedFrame) (s : State) : (captureShut i f s).pending = s.pending := by
  unfold captureShut; dsimp only; split <;> simp

/-! ### captureShutPacket -/

@[simp] theorem captureShutPacket_power (s : State) : (captureShutPacket s).power = s.power := by
  unfold captureShutPacket; repeat' (split <;> try simp)
@[simp] theorem captureShutPacket_mode (s : State) : (captureShutPacket s).mode = s.mode := by
  unfold captureShutPacket; repeat' (split <;> try simp)
@[simp] theorem captureShutPacket_holdLine (s : State) : (captureShutPacket s).holdLine = s.holdLine := by
  unfold captureShutPacket; repeat' (split <;> try simp)
@[simp] theorem captureShutPacket_inlet (s : State) : (captureShutPacket s).inlet = s.inlet := by
  unfold captureShutPacket; repeat' (split <;> try simp)
@[simp] theorem captureShutPacket_forward (s : State) : (captureShutPacket s).forward = s.forward := by
  unfold captureShutPacket; repeat' (split <;> try simp)
@[simp] theorem captureShutPacket_outlet (s : State) : (captureShutPacket s).outlet = s.outlet := by
  unfold captureShutPacket; repeat' (split <;> try simp)
@[simp] theorem captureShutPacket_reg (s : State) : (captureShutPacket s).reg = s.reg := by
  unfold captureShutPacket; repeat' (split <;> try simp)
@[simp] theorem captureShutPacket_placement (s : State) : (captureShutPacket s).placement = s.placement := by
  unfold captureShutPacket; repeat' (split <;> try simp)
@[simp] theorem captureShutPacket_comp (s : State) : (captureShutPacket s).comp = s.comp := by
  unfold captureShutPacket; repeat' (split <;> try simp)
@[simp] theorem captureShutPacket_dirs (s : State) : (captureShutPacket s).dirs = s.dirs := by
  unfold captureShutPacket; repeat' (split <;> try simp)
@[simp] theorem captureShutPacket_tables (s : State) : (captureShutPacket s).tables = s.tables := by
  unfold captureShutPacket; repeat' (split <;> try simp)
@[simp] theorem captureShutPacket_store (s : State) : (captureShutPacket s).store = s.store := by
  unfold captureShutPacket; repeat' (split <;> try simp)
@[simp] theorem captureShutPacket_freeIndex (s : State) : (captureShutPacket s).freeIndex = s.freeIndex := by
  unfold captureShutPacket; repeat' (split <;> try simp)
@[simp] theorem captureShutPacket_pending (s : State) : (captureShutPacket s).pending = s.pending := by
  unfold captureShutPacket; repeat' (split <;> try simp)

/-! ### offerForward -/

@[simp] theorem offerForward_power (p : Packet) (s : State) : (offerForward p s).power = s.power := by
  unfold offerForward; split <;> rfl
@[simp] theorem offerForward_mode (p : Packet) (s : State) : (offerForward p s).mode = s.mode := by
  unfold offerForward; split <;> rfl
@[simp] theorem offerForward_holdLine (p : Packet) (s : State) : (offerForward p s).holdLine = s.holdLine := by
  unfold offerForward; split <;> rfl
@[simp] theorem offerForward_inlet (p : Packet) (s : State) : (offerForward p s).inlet = s.inlet := by
  unfold offerForward; split <;> rfl
@[simp] theorem offerForward_outlet (p : Packet) (s : State) : (offerForward p s).outlet = s.outlet := by
  unfold offerForward; split <;> rfl
@[simp] theorem offerForward_capture (p : Packet) (s : State) : (offerForward p s).capture = s.capture := by
  unfold offerForward; split <;> rfl
@[simp] theorem offerForward_reg (p : Packet) (s : State) : (offerForward p s).reg = s.reg := by
  unfold offerForward; split <;> rfl
@[simp] theorem offerForward_placement (p : Packet) (s : State) : (offerForward p s).placement = s.placement := by
  unfold offerForward; split <;> rfl
@[simp] theorem offerForward_comp (p : Packet) (s : State) : (offerForward p s).comp = s.comp := by
  unfold offerForward; split <;> rfl
@[simp] theorem offerForward_ring (p : Packet) (s : State) : (offerForward p s).ring = s.ring := by
  unfold offerForward; split <;> rfl
@[simp] theorem offerForward_sweep (p : Packet) (s : State) : (offerForward p s).sweep = s.sweep := by
  unfold offerForward; split <;> rfl
@[simp] theorem offerForward_dirs (p : Packet) (s : State) : (offerForward p s).dirs = s.dirs := by
  unfold offerForward; split <;> rfl
@[simp] theorem offerForward_tables (p : Packet) (s : State) : (offerForward p s).tables = s.tables := by
  unfold offerForward; split <;> rfl
@[simp] theorem offerForward_store (p : Packet) (s : State) : (offerForward p s).store = s.store := by
  unfold offerForward; split <;> rfl
@[simp] theorem offerForward_freeIndex (p : Packet) (s : State) : (offerForward p s).freeIndex = s.freeIndex := by
  unfold offerForward; split <;> rfl
@[simp] theorem offerForward_pending (p : Packet) (s : State) : (offerForward p s).pending = s.pending := by
  unfold offerForward; split <;> rfl

/-! ### queueDirective -/

@[simp] theorem queueDirective_power (b : List Byte) (s : State) : (queueDirective b s).power = s.power := by
  unfold queueDirective; split <;> rfl
@[simp] theorem queueDirective_mode (b : List Byte) (s : State) : (queueDirective b s).mode = s.mode := by
  unfold queueDirective; split <;> rfl
@[simp] theorem queueDirective_holdLine (b : List Byte) (s : State) : (queueDirective b s).holdLine = s.holdLine := by
  unfold queueDirective; split <;> rfl
@[simp] theorem queueDirective_inlet (b : List Byte) (s : State) : (queueDirective b s).inlet = s.inlet := by
  unfold queueDirective; split <;> rfl
@[simp] theorem queueDirective_forward (b : List Byte) (s : State) : (queueDirective b s).forward = s.forward := by
  unfold queueDirective; split <;> rfl
@[simp] theorem queueDirective_outlet (b : List Byte) (s : State) : (queueDirective b s).outlet = s.outlet := by
  unfold queueDirective; split <;> rfl
@[simp] theorem queueDirective_capture (b : List Byte) (s : State) : (queueDirective b s).capture = s.capture := by
  unfold queueDirective; split <;> rfl
@[simp] theorem queueDirective_reg (b : List Byte) (s : State) : (queueDirective b s).reg = s.reg := by
  unfold queueDirective; split <;> rfl
@[simp] theorem queueDirective_placement (b : List Byte) (s : State) : (queueDirective b s).placement = s.placement := by
  unfold queueDirective; split <;> rfl
@[simp] theorem queueDirective_comp (b : List Byte) (s : State) : (queueDirective b s).comp = s.comp := by
  unfold queueDirective; split <;> rfl
@[simp] theorem queueDirective_ring (b : List Byte) (s : State) : (queueDirective b s).ring = s.ring := by
  unfold queueDirective; split <;> rfl
@[simp] theorem queueDirective_sweep (b : List Byte) (s : State) : (queueDirective b s).sweep = s.sweep := by
  unfold queueDirective; split <;> rfl
@[simp] theorem queueDirective_tables (b : List Byte) (s : State) : (queueDirective b s).tables = s.tables := by
  unfold queueDirective; split <;> rfl
@[simp] theorem queueDirective_store (b : List Byte) (s : State) : (queueDirective b s).store = s.store := by
  unfold queueDirective; split <;> rfl
@[simp] theorem queueDirective_freeIndex (b : List Byte) (s : State) : (queueDirective b s).freeIndex = s.freeIndex := by
  unfold queueDirective; split <;> rfl
@[simp] theorem queueDirective_pending (b : List Byte) (s : State) : (queueDirective b s).pending = s.pending := by
  unfold queueDirective; split <;> rfl

/-! ### cutOperation -/

@[simp] theorem cutOperation_power (s : State) : (cutOperation s).power = s.power := by
  unfold cutOperation; split <;> rfl
@[simp] theorem cutOperation_mode (s : State) : (cutOperation s).mode = s.mode := by
  unfold cutOperation; split <;> rfl
@[simp] theorem cutOperation_holdLine (s : State) : (cutOperation s).holdLine = s.holdLine := by
  unfold cutOperation; split <;> rfl
@[simp] theorem cutOperation_inlet (s : State) : (cutOperation s).inlet = s.inlet := by
  unfold cutOperation; split <;> rfl
@[simp] theorem cutOperation_forward (s : State) : (cutOperation s).forward = s.forward := by
  unfold cutOperation; split <;> rfl
@[simp] theorem cutOperation_outlet (s : State) : (cutOperation s).outlet = s.outlet := by
  unfold cutOperation; split <;> rfl
@[simp] theorem cutOperation_capture (s : State) : (cutOperation s).capture = s.capture := by
  unfold cutOperation; split <;> rfl
@[simp] theorem cutOperation_reg (s : State) : (cutOperation s).reg = s.reg := by
  unfold cutOperation; split <;> rfl
@[simp] theorem cutOperation_placement (s : State) : (cutOperation s).placement = s.placement := by
  unfold cutOperation; split <;> rfl
@[simp] theorem cutOperation_comp (s : State) : (cutOperation s).comp = s.comp := by
  unfold cutOperation; split <;> rfl
@[simp] theorem cutOperation_ring (s : State) : (cutOperation s).ring = s.ring := by
  unfold cutOperation; split <;> rfl
@[simp] theorem cutOperation_sweep (s : State) : (cutOperation s).sweep = s.sweep := by
  unfold cutOperation; split <;> rfl
@[simp] theorem cutOperation_dirs (s : State) : (cutOperation s).dirs = s.dirs := by
  unfold cutOperation; split <;> rfl
@[simp] theorem cutOperation_notes (s : State) : (cutOperation s).notes = s.notes := by
  unfold cutOperation; split <;> rfl
@[simp] theorem cutOperation_counters (s : State) : (cutOperation s).counters = s.counters := by
  unfold cutOperation; split <;> rfl
@[simp] theorem cutOperation_tables (s : State) : (cutOperation s).tables = s.tables := by
  unfold cutOperation; split <;> rfl
@[simp] theorem cutOperation_pending (s : State) : (cutOperation s).pending = s.pending := by
  unfold cutOperation; split <;> rfl

/-! ### One value per kind, slot and profile slot -/

@[simp] theorem PerKind.get_set_same {α : Type} (p : PerKind α) (k : EventKind) (a : α) : (p.set k a).get k = a := by
  cases k <;> rfl

theorem PerKind.get_set_ne {α : Type} (p : PerKind α) {k j : EventKind} (h : j ≠ k) (a : α) :
    (p.set k a).get j = p.get j := by
  cases k <;> cases j <;> first | rfl | exact absurd rfl h

@[simp] theorem PerKind.get_const {α : Type} (a : α) (k : EventKind) : (PerKind.const a).get k = a := by cases k <;> rfl

theorem mem_eventKinds (k : EventKind) : k ∈ eventKinds := by cases k <;> decide

@[simp] theorem FrameSlots.get_set_same (f : FrameSlots) (i : Fin 3) (x : Option CapturedFrame) : (f.set i x).get i = x := by
  match i with
  | 0 => rfl
  | 1 => rfl
  | 2 => rfl

theorem FrameSlots.get_set_ne (f : FrameSlots) {i j : Fin 3} (h : j ≠ i) (x : Option CapturedFrame) :
    (f.set i x).get j = f.get j := by
  match i, j with
  | 0, 0 => exact absurd rfl h
  | 0, 1 => rfl
  | 0, 2 => rfl
  | 1, 0 => rfl
  | 1, 1 => exact absurd rfl h
  | 1, 2 => rfl
  | 2, 0 => rfl
  | 2, 1 => rfl
  | 2, 2 => exact absurd rfl h

theorem FrameSlots.get_set (f : FrameSlots) (i j : Fin 3) (x : Option CapturedFrame) :
    (f.set i x).get j = if j = i then x else f.get j := by
  by_cases h : j = i
  · subst h; simp
  · simp [h, FrameSlots.get_set_ne f h x]

@[simp] theorem FrameSlots.get_allFree (i : Fin 3) : FrameSlots.allFree.get i = none := by
  match i with
  | 0 => rfl
  | 1 => rfl
  | 2 => rfl

@[simp] theorem ProfileSlots.get_set_same (p : ProfileSlots) (i : Fin 4) (x : ProfileSlot) : (p.set i x).get i = x := by
  match i with
  | 0 => rfl
  | 1 => rfl
  | 2 => rfl
  | 3 => rfl

theorem ProfileSlots.get_set (p : ProfileSlots) (i j : Fin 4) (x : ProfileSlot) :
    (p.set i x).get j = if j = i then x else p.get j := by
  revert i j
  intro i j
  fin_cases i <;> fin_cases j <;> rfl

theorem ProfileSlots.get_set_ne (p : ProfileSlots) {i j : Fin 4} (h : j ≠ i) (x : ProfileSlot) :
    (p.set i x).get j = p.get j := by
  rw [ProfileSlots.get_set, if_neg h]

theorem mem_slotNumbers (i : Fin 3) : i ∈ slotNumbers := by
  match i with
  | 0 => decide
  | 1 => decide
  | 2 => decide

/-- The lowest slot in a state is in it, and no lower one is. -/
theorem lowestIn_spec {st : Option SlotState} {s : State} {i : Fin 3} (h : lowestIn st s = some i) :
    slotState s i = st ∧ ∀ j, j < i → slotState s j ≠ st := by
  unfold lowestIn slotNumbers at h
  simp only [List.find?_cons, List.find?_nil] at h
  split at h
  · cases h
    exact ⟨by simpa using ‹decide (slotState s 0 = st) = true›, fun j hj => absurd hj (Fin.not_lt_zero j)⟩
  · split at h
    · cases h
      refine ⟨by simpa using ‹decide (slotState s 1 = st) = true›, fun j hj => ?_⟩
      have : j = 0 := by omega
      subst this; simpa using ‹decide (slotState s 0 = st) = false›
    · split at h
      · cases h
        refine ⟨by simpa using ‹decide (slotState s 2 = st) = true›, fun j hj => ?_⟩
        have : j = 0 ∨ j = 1 := by omega
        rcases this with rfl | rfl
        · simpa using ‹decide (slotState s 0 = st) = false›
        · simpa using ‹decide (slotState s 1 = st) = false›
      · cases h

/-- No slot is in a state when there is no lowest one. -/
theorem lowestIn_none {st : Option SlotState} {s : State} (h : lowestIn st s = none) (i : Fin 3) : slotState s i ≠ st := by
  have := List.find?_eq_none.1 h i (mem_slotNumbers i)
  simpa using this

/-- A slot in a state is the lowest one in it when no lower slot is. -/
theorem lowestIn_eq {st : Option SlotState} {s : State} {i : Fin 3} (h : slotState s i = st)
    (low : ∀ j, j < i → slotState s j ≠ st) : lowestIn st s = some i := by
  cases e : lowestIn st s with
  | none => exact absurd h (lowestIn_none e i)
  | some j =>
    obtain ⟨hj, hl⟩ := lowestIn_spec e
    rcases lt_trichotomy i j with c | c | c
    · exact absurd h (hl i c)
    · rw [c]
    · exact absurd hj (low j c)

/-! ### Events, directives, the arbiter -/

/-- An event always comes to a next state: the arbiter's choice behind its effect when it is enabled, the state itself when
it is not. -/
theorem event_eq (enabled : State → Bool) (effect : State → State) (s : State) :
    event enabled effect s = .next (if s.power = .running ∧ enabled s then arbitrate (effect s) else s) := by
  unfold event; split <;> rfl

theorem event_enabled {enabled : State → Bool} {effect : State → State} {s : State} (hp : s.power = .running)
    (he : enabled s = true) : event enabled effect s = .next (arbitrate (effect s)) := by
  simp [event_eq, hp, he]

theorem event_disabled {enabled : State → Bool} {effect : State → State} {s : State}
    (h : s.power = .running → enabled s = false) : event enabled effect s = .next s := by
  rw [event_eq, if_neg]; rintro ⟨hp, he⟩; simp [h hp] at he

/-- Everything an event can do. -/
theorem event_cases {enabled : State → Bool} {effect : State → State} {s t : State} (h : event enabled effect s = .next t) :
    (s.power = .running ∧ enabled s = true ∧ t = arbitrate (effect s)) ∨ t = s := by
  rw [event_eq] at h
  split at h <;> cases h
  · exact .inl ⟨‹_ ∧ _›.1, ‹_ ∧ _›.2, rfl⟩
  · exact .inr rfl

theorem canTake_of_offers {is : Byte → Bool} {s : State} {body : List Byte} {rest : List (List Byte)}
    (h : s.offers body rest) : canTake is s = is (dirCode body) := by
  obtain ⟨-, hw, hq⟩ := h
  simp [canTake, hw, hq]

/-- A take of the directive on offer: `act` on its body and the state without it, then the arbiter. -/
theorem takeDirective_of_offers {is : Byte → Bool} {act : List Byte → State → State} {s : State} {body : List Byte}
    {rest : List (List Byte)} (h : s.offers body rest) (hc : is (dirCode body) = true) :
    takeDirective is act s = .next (arbitrate (act body (s.taken rest))) := by
  unfold takeDirective
  rw [event_enabled h.1 ((canTake_of_offers h).trans hc)]
  simp [headBody, popDirective, State.taken, h.2.2]

/-- A take does not come while a reply waits, on an empty queue, or when the head's code is another directive's. -/
theorem takeDirective_not {is : Byte → Bool} {act : List Byte → State → State} {s : State} (h : canTake is s = false) :
    takeDirective is act s = .next s := event_disabled fun _ => h

theorem withParams_some {n : Nat} {body : List Byte} {act : List Nat → State → State} {s : State} {ps : List Nat}
    (h : dirParams body = some ps) (hn : ps.length = n) : withParams n body act s = act ps s := by
  simp [withParams, h, hn]

theorem withParams_format {n : Nat} {body : List Byte} {act : List Nat → State → State} {s : State}
    (h : ∀ ps, dirParams body = some ps → ps.length ≠ n) : withParams n body act s = replyTo body .format [] s := by
  unfold withParams
  split
  · rfl
  · rename_i ps hp; rw [if_neg (h ps hp)]

/-- A take whose parameter words are as many as its directive requires (R167 check 2). -/
theorem takeDirective_params {is : Byte → Bool} {n : Nat} {act : List Byte → List Nat → State → State} {s : State}
    {body : List Byte} {rest : List (List Byte)} {ps : List Nat} (h : s.offers body rest) (hc : is (dirCode body) = true)
    (hp : dirParams body = some ps) (hn : ps.length = n) :
    takeDirective is (fun b s => withParams n b (act b) s) s = .next (arbitrate (act body ps (s.taken rest))) := by
  rw [takeDirective_of_offers h hc, withParams_some hp hn]

/-- A take whose parameter words are missing or of another number is answered FORMAT (R167 check 2). -/
theorem takeDirective_format {is : Byte → Bool} {n : Nat} {act : List Byte → List Nat → State → State} {s : State}
    {body : List Byte} {rest : List (List Byte)} (h : s.offers body rest) (hc : is (dirCode body) = true)
    (hn : ∀ ps, dirParams body = some ps → ps.length ≠ n) :
    takeDirective is (fun b s => withParams n b (act b) s) s = .next (arbitrate (replyTo body .format [] (s.taken rest))) := by
  rw [takeDirective_of_offers h hc, withParams_format hn]

/-- Everything the arbiter can do: nothing, or the start of the first claimant's packet, which counts a COMPLETE TILEEND. -/
theorem arbitrate_cases (s : State) :
    arbitrate s = s ∨ s.power = .running ∧ s.holdLine = false ∧ s.outlet.sending = none ∧
      ∃ c p, (arbitrate s).outlet = { s.outlet with sending := some ⟨c, p, false⟩ } ∧
        ((∃ q, s.forward = p :: q ∧ c = .forward) ∨ (s.forward = [] ∧ ∃ n q, s.notes.queue = n :: q ∧ c = .note ∧ p = notePacket n) ∨
          (s.forward = [] ∧ s.notes.queue = [] ∧ ∃ r, s.ring.run = some r ∧ c = .tile ∧ p = runPacket s r)) := by
  unfold arbitrate
  split
  · exact .inl rfl
  · rename_i h
    simp only [not_or, Bool.not_eq_true, Option.isSome_eq_false_iff, Option.isNone_iff_eq_none, ne_eq,
      Decidable.not_not] at h
    split
    · exact .inr ⟨h.1, h.2.1, h.2.2, _, _, rfl, .inl ⟨_, ‹_›, rfl⟩⟩
    · exact .inr ⟨h.1, h.2.1, h.2.2, _, _, rfl, .inr (.inl ⟨‹_›, _, _, ‹_›, rfl, rfl⟩)⟩
    · refine .inr ⟨h.1, h.2.1, h.2.2, .tile, runPacket s _, ?_, .inr (.inr ⟨‹_›, ‹_›, _, ‹_›, rfl, rfl⟩)⟩
      unfold startTilePacket; dsimp only; split <;> rfl
    · exact .inl rfl

/-- The arbiter starts nothing while the line is held, a packet is on the outlet, or the part does not run. -/
theorem arbitrate_blocked {s : State} (h : s.power ≠ .running ∨ s.holdLine = true ∨ s.outlet.sending ≠ none) :
    arbitrate s = s := by
  unfold arbitrate
  rw [if_pos]
  rcases h with h | h | h
  · exact .inl h
  · exact .inr (.inl h)
  · exact .inr (.inr (Option.isSome_iff_ne_none.2 h))

/-- A SWEEP_ABORT has arrived with the event at hand exactly when it waits behind it, on offer, in a sweep that it ends. -/
theorem abortArrives_iff {s : State} (hp : s.power = .running) : abortArrives s = true ↔ s.abortBehind := by
  have hd : ∀ (b : List Byte) (r : List (List Byte)), s.dirs.queue = b :: r → headBody s = b := by
    intro b r h; simp [headBody, h]
  simp only [abortArrives, State.abortBehind, Bool.and_eq_true, decide_eq_true_eq, sweepRuns, ne_eq]
  constructor
  · rintro ⟨⟨⟨h1, h2⟩, h3⟩, h4⟩
    refine ⟨h1, ?_, h4⟩
    cases hq : s.dirs.queue with
    | nil => simp [canTake, hq] at h2
    | cons b r =>
      simp only [canTake, hq, Bool.and_eq_true, Bool.not_eq_true', beq_iff_eq] at h2
      exact ⟨b, r, ⟨hp, h2.1, hq⟩, h2.2, hd b r hq ▸ h3⟩
  · rintro ⟨h1, ⟨b, r, ho, hc, hb⟩, h4⟩
    refine ⟨⟨⟨h1, ?_⟩, hd b r ho.2.2 ▸ hb⟩, h4⟩
    rw [canTake_of_offers ho, hc]; rfl

/-- Everything a run's take can do: nothing; the take, then the arbiter's choice; or, with a SWEEP_ABORT behind it and no packet
ahead, the take alone. -/
theorem execTileRunTake_cases {s t : State} (h : execTileRunTake s = .next t) :
    t = s ∨ s.power = .running ∧ canTakeRun s = true ∧
      (t = arbitrate (takeRun s) ∨
        abortArrives s = true ∧ (takeRun s).forward = [] ∧ (takeRun s).notes.queue = [] ∧ t = takeRun s) := by
  unfold execTileRunTake at h
  split at h
  · rename_i c
    cases h
    refine .inr ⟨c.2.1, c.2.2, ?_⟩
    unfold arbitrateAhead
    split
    · exact .inr ⟨c.1, ‹_ ∧ _›.1, ‹_ ∧ _›.2, rfl⟩
    · exact .inl rfl
  · rcases event_cases h with ⟨hp, he, ht⟩ | ht
    · exact .inr ⟨hp, he, .inl ht⟩
    · exact .inl ht

/-! ### Notes -/

/-- Where a raised event goes (R172). -/
theorem raiseNote_cases (k : EventKind) (p : List Word) (n : NoteUnit) :
    (∃ old, n.pending.get k = some old ∧
      raiseNote k p n = { n with pending := n.pending.set k (some ⟨p, min 255 (old.superseded + 1)⟩) }) ∨
    (n.pending.get k = none ∧ n.unmasked.get k = true ∧ n.queue.length < noteSlots ∧
      raiseNote k p n = { n with queue := n.queue ++ [.event k 0 p] }) ∨
    (n.pending.get k = none ∧ (n.unmasked.get k = false ∨ noteSlots ≤ n.queue.length) ∧
      raiseNote k p n = { n with pending := n.pending.set k (some ⟨p, 0⟩) }) := by
  unfold raiseNote
  split
  · exact .inl ⟨_, ‹_›, rfl⟩
  · split
    · exact .inr (.inl ⟨‹_›, ‹_ ∧ _›.1, ‹_ ∧ _›.2, rfl⟩)
    · refine .inr (.inr ⟨‹_›, ?_, rfl⟩)
      rename_i h
      by_cases hu : n.unmasked.get k = true
      · exact .inr (Nat.le_of_not_lt fun hl => h ⟨hu, hl⟩)
      · exact .inl (by simpa using hu)

@[simp] theorem raiseNote_replies (k : EventKind) (p : List Word) (n : NoteUnit) : (raiseNote k p n).replies = n.replies := by
  unfold raiseNote; repeat' (split <;> try rfl)

@[simp] theorem raiseNote_unmasked (k : EventKind) (p : List Word) (n : NoteUnit) : (raiseNote k p n).unmasked = n.unmasked := by
  unfold raiseNote; repeat' (split <;> try rfl)

@[simp] theorem emitPending_unmasked (n : NoteUnit) (k : EventKind) : (emitPending n k).unmasked = n.unmasked := by
  unfold emitPending; repeat' (split <;> try rfl)

@[simp] theorem emitPending_replies (n : NoteUnit) (k : EventKind) : (emitPending n k).replies = n.replies := by
  unfold emitPending; repeat' (split <;> try rfl)

/-- A note unit with nothing to emit stays as it is (R171 step 2). -/
theorem emitPending_idle {n : NoteUnit} {k : EventKind}
    (h : n.queue.length = noteSlots ∨ (n.unmasked.get k = true → n.pending.get k = none)) : emitPending n k = n := by
  unfold emitPending
  split
  · rfl
  · rename_i p hp
    split
    · rename_i hc
      rcases h with h | h
      · omega
      · rw [h hc.1] at hp; cases hp
    · rfl

theorem foldl_emitPending_idle {n : NoteUnit}
    (h : n.queue.length = noteSlots ∨ ∀ k, n.unmasked.get k = true → n.pending.get k = none) :
    ∀ l : List EventKind, l.foldl emitPending n = n
  | [] => rfl
  | k :: l => by
    rw [List.foldl_cons, emitPending_idle (h.imp_right fun g => g k)]
    exact foldl_emitPending_idle h l

/-- A settled note unit has nothing to do (R171). -/
theorem fillNotes_settled {n : NoteUnit} (h : n.settled) : fillNotes n = n := by
  have hr : fillReplies n = n := by
    rcases h.2 with hq | ⟨hr, -⟩
    · simp [fillReplies, repliesPlaced, hq]
    · cases n; simp_all [fillReplies, repliesPlaced]
  unfold fillNotes
  rw [hr, foldl_emitPending_idle (h.2.imp_right fun g => g.2)]

/-- A settled note unit given one more reply: it stands in the queue when a slot is free, and waits when none is (R171). -/
theorem fillNotes_reply {n : NoteUnit} (h : n.settled) (r : WaitingReply) :
    fillNotes { n with replies := n.replies ++ [r] } =
      if n.queue.length < noteSlots then { n with queue := n.queue ++ [r.note] }
      else { n with replies := n.replies ++ [r] } := by
  obtain ⟨q, rs, un, pe⟩ := n
  obtain ⟨hle, hs⟩ := h
  dsimp only at hle hs ⊢
  split
  · rename_i hl
    rcases hs with hq | ⟨hr, hp⟩
    · omega
    · subst hr
      have h1 : ∃ k, noteSlots - q.length = k + 1 := ⟨noteSlots - q.length - 1, by omega⟩
      obtain ⟨k, hk⟩ := h1
      have : fillReplies ⟨q, [] ++ [r], un, pe⟩ = ⟨q ++ [r.note], [], un, pe⟩ := by
        simp [fillReplies, repliesPlaced, hk]
      rw [fillNotes, this, foldl_emitPending_idle (.inr hp)]
  · rename_i hl
    have hq : q.length = noteSlots := by omega
    have : fillReplies ⟨q, rs ++ [r], un, pe⟩ = ⟨q, rs ++ [r], un, pe⟩ := by
      simp [fillReplies, repliesPlaced, hq]
    rw [fillNotes, this, foldl_emitPending_idle (.inl hq)]

/-- Everything R171 step 2 does for one kind. -/
theorem emitPending_cases (n : NoteUnit) (k : EventKind) :
    (emitPending n k = n ∧ (n.unmasked.get k = true → n.pending.get k = none ∨ noteSlots ≤ n.queue.length)) ∨
      ∃ p, n.pending.get k = some p ∧ n.unmasked.get k = true ∧ n.queue.length < noteSlots ∧
        emitPending n k =
          { n with queue := n.queue ++ [.event k p.superseded p.payload], pending := n.pending.set k none } := by
  unfold emitPending
  split
  · exact .inl ⟨rfl, fun _ => .inl ‹_›⟩
  · split
    · exact .inr ⟨_, ‹_›, ‹_ ∧ _›.1, ‹_ ∧ _›.2, rfl⟩
    · rename_i h
      exact .inl ⟨rfl, fun hu => .inr (Nat.le_of_not_lt fun hl => h ⟨hu, hl⟩)⟩

/-- What filling comes to over a list of kinds: no more notes than slots, no reply touched, and either a full queue or
nothing unmasked pending among those kinds. -/
theorem foldl_emitPending_spec : ∀ (l : List EventKind) (n : NoteUnit), n.queue.length ≤ noteSlots →
    let m := l.foldl emitPending n
    m.queue.length ≤ noteSlots ∧ n.queue.length ≤ m.queue.length ∧ m.replies = n.replies ∧ m.unmasked = n.unmasked ∧
      (∀ k, n.pending.get k = none → m.pending.get k = none) ∧
      (m.queue.length = noteSlots ∨ ∀ k ∈ l, m.unmasked.get k = true → m.pending.get k = none)
  | [], n, h => ⟨h, Nat.le_refl _, rfl, rfl, fun _ h => h, .inr (by simp)⟩
  | k :: l, n, h => by
    have key : (emitPending n k).queue.length ≤ noteSlots ∧ n.queue.length ≤ (emitPending n k).queue.length ∧
        (∀ j, n.pending.get j = none → (emitPending n k).pending.get j = none) ∧
        ((emitPending n k).queue.length = noteSlots ∨ (n.unmasked.get k = true → (emitPending n k).pending.get k = none)) := by
      rcases emitPending_cases n k with ⟨e, hp⟩ | ⟨p, hp, hu, hl, e⟩
      · rw [e]
        refine ⟨h, Nat.le_refl _, fun _ h => h, ?_⟩
        by_cases hq : n.queue.length = noteSlots
        · exact .inl hq
        · exact .inr fun hu => (hp hu).resolve_right (by omega)
      · rw [e]
        refine ⟨by simp; omega, by simp, fun j hj => ?_, .inr fun _ => by simp⟩
        by_cases hjk : j = k
        · subst hjk; simp
        · simpa [PerKind.get_set_ne _ hjk] using hj
    obtain ⟨k1, k2, k3, k4⟩ := key
    obtain ⟨i1, i2, i3, i4, i5, i6⟩ := foldl_emitPending_spec l (emitPending n k) k1
    refine ⟨i1, k2.trans i2, by simpa using i3, by simpa using i4, fun j hj => i5 j (k3 j hj), ?_⟩
    rcases i6 with i6 | i6
    · exact .inl i6
    · rcases k4 with k4 | k4
      · exact .inl (by simp only [List.foldl_cons]; omega)
      · refine .inr fun j hj => ?_
        rcases List.mem_cons.1 hj with rfl | hj
        · intro hu
          have hu' : n.unmasked.get j = true := by simpa [i4] using hu
          exact i5 j (k4 hu')
        · exact i6 j hj

/-- Whatever waits, filling settles a note unit that has no more notes than slots (R171). -/
theorem fillNotes_settles {n : NoteUnit} (h : n.queue.length ≤ noteSlots) : (fillNotes n).settled := by
  have hq : (fillReplies n).queue.length ≤ noteSlots := by
    simp [fillReplies, repliesPlaced]; omega
  obtain ⟨i1, i2, i3, i4, i5, i6⟩ := foldl_emitPending_spec eventKinds (fillReplies n) hq
  refine ⟨i1, ?_⟩
  rcases i6 with i6 | i6
  · exact .inl i6
  · by_cases hf : (fillReplies n).queue.length = noteSlots
    · exact .inl (Nat.le_antisymm i1 (by rw [← hf]; exact i2))
    · refine .inr ⟨i3.trans ?_, fun k => i6 k (mem_eventKinds k)⟩
      simp [fillReplies, repliesPlaced] at hf ⊢
      omega

/-- A raise keeps a note unit settled (R172). -/
theorem raiseNote_settles {n : NoteUnit} (h : n.settled) (k : EventKind) (p : List Word) : (raiseNote k p n).settled := by
  obtain ⟨hl, hs⟩ := h
  have hset : ∀ r, (n.pending.get k ≠ none ∨ n.unmasked.get k = false ∨ noteSlots ≤ n.queue.length) →
      NoteUnit.settled { n with pending := n.pending.set k (some r) } := by
    intro r hk
    refine ⟨hl, ?_⟩
    rcases hs with hs | ⟨hr, hp⟩
    · exact .inl hs
    · rcases hk with hk | hk | hk
      · refine .inr ⟨hr, fun j hj => ?_⟩
        by_cases hjk : j = k
        · subst hjk; exact absurd (hp j hj) hk
        · rw [PerKind.get_set_ne _ hjk]; exact hp j hj
      · refine .inr ⟨hr, fun j hj => ?_⟩
        by_cases hjk : j = k
        · subst hjk; simp [hk] at hj
        · rw [PerKind.get_set_ne _ hjk]; exact hp j hj
      · exact .inl (Nat.le_antisymm hl hk)
  rcases raiseNote_cases k p n with ⟨old, ho, e⟩ | ⟨hn, hu, hq, e⟩ | ⟨hn, hq, e⟩
  · rw [e]; exact hset _ (.inl (by simp [ho]))
  · rw [e]
    refine ⟨by simp; omega, ?_⟩
    rcases hs with hs | hs
    · omega
    · exact .inr hs
  · rw [e]; exact hset _ (.inr hq)

/-! ### Outcomes that count nothing for the sweep -/

/-- An outcome that is neither SEED nor COMPOSITED leaves the sweep controller as it is. -/
theorem recordOutcome_sweep {r : OutcomeRecord} (h : countsAsComposited r.outcome = false) (s : State) :
    (recordOutcome r s).sweep = s.sweep := by
  simp [recordOutcome, h]

/-- Every case of a tested drain (R36). -/
theorem testDrain_cases (s : State) :
    (drainComplete s = true ∧ testDrain s = changeSweep .ended s.sweep.cause s) ∨ (drainComplete s = false ∧ testDrain s = s) := by
  unfold testDrain; split
  · exact .inl ⟨‹_›, rfl⟩
  · exact .inr ⟨by simpa using ‹¬drainComplete s = true›, rfl⟩

/-- Entry to DRAINING leaves the sweep DRAINING, or ENDED where the drain was complete at once, with the cause given (R34, R36). -/
theorem enterDraining_sweep (c : EndCause) (s : State) :
    (enterDraining c s).sweep = { s.sweep with state := .draining, cause := c } ∨
      (enterDraining c s).sweep = { s.sweep with state := .ended, cause := c } := by
  unfold enterDraining
  rcases testDrain_cases (examineTiles (discardCaptured (changeSweep .draining c s))) with ⟨-, h⟩ | ⟨-, h⟩ <;> rw [h]
  · right; simp [changeSweep]
  · left; simp [changeSweep]


/-- Tiles sealed one after another join the queue's tail in that order, and those of their indices become SEALED (R151). -/
theorem foldl_sealTile_spec : ∀ (l : List Tile) (u : State),
    (l.foldl sealTile u).ring.sealedQueue = u.ring.sealedQueue ++ l.map (·.index) ∧
    (l.foldl sealTile u).ring.tiles =
      u.ring.tiles.map fun v => if (∃ t ∈ l, v.index = t.index) then { v with state := .sealed } else v
  | [], u => by simp
  | t :: l, u => by
    have h1 : (sealTile u t).ring.sealedQueue = u.ring.sealedQueue ++ [t.index] := by
      simp only [sealTile]; split <;> simp
    have h2 : (sealTile u t).ring.tiles =
        u.ring.tiles.map fun v => if v.index = t.index then { v with state := .sealed } else v := by
      simp only [sealTile]; split <;> simp
    obtain ⟨a, b⟩ := foldl_sealTile_spec l (sealTile u t)
    rw [List.foldl_cons, a, b, h1, h2]
    refine ⟨by simp, ?_⟩
    rw [List.map_map]
    refine List.map_congr_left fun v _ => ?_
    by_cases hv : v.index = t.index <;> by_cases hl : ∃ t ∈ l, v.index = t.index <;> simp_all

/-- Every command but the lines, the power supply and the take of a run is an `event` (log 1). -/
theorem exec_event (c : Instr) (h : lineEvent c = false) (ht : c ≠ .tileRunTake) :
    ∃ enabled effect, ∀ s, exec c s = event enabled effect s := by
  cases c <;> first | exact ⟨_, _, fun _ => rfl⟩ | exact absurd rfl ht | cases h

end Sys2Proof.Machine
end

