-- ==== Sys2Proof/Laws/Canvas.lean ====
section
/-! SUPPORT. Tiles and columns: a tile's top and bottom (R153), the covered span of a column, and a column's coverage after a
composite (R145). -/

namespace Sys2Proof.Machine

/-- The fold that takes the least top answers it. -/
theorem foldl_least_top (l : List Coverage) (b : Nat) : let m := l.foldl (fun m x => min m x.top) b
    m ≤ b ∧ (∀ c ∈ l, m ≤ c.top) ∧ (m = b ∨ ∃ c ∈ l, c.top = m) := by
  induction l generalizing b with
  | nil => simp
  | cons c l ih =>
    obtain ⟨h1,h2,h3⟩ := ih (min b c.top)
    simp only [List.foldl_cons]
    refine ⟨by omega, ?_, ?_⟩
    · intro d hd; rcases List.mem_cons.1 hd with rfl | hd
      · omega
      · exact h2 d hd
    · rcases h3 with h3 | ⟨d, hd, h3⟩
      · rcases Nat.le_total b c.top with h | h
        · left; omega
        · right; exact ⟨c, by simp, by omega⟩
      · right; exact ⟨d, by simp [hd], h3⟩

/-- The fold that takes the greatest bottom answers it. -/
theorem foldl_greatest_bottom (l : List Coverage) (b : Nat) : let m := l.foldl (fun m x => max m x.bottom) b
    b ≤ m ∧ (∀ c ∈ l, c.bottom ≤ m) ∧ (m = b ∨ ∃ c ∈ l, c.bottom = m) := by
  induction l generalizing b with
  | nil => simp
  | cons c l ih =>
    obtain ⟨h1,h2,h3⟩ := ih (max b c.bottom)
    simp only [List.foldl_cons]
    refine ⟨by omega, ?_, ?_⟩
    · intro d hd; rcases List.mem_cons.1 hd with rfl | hd
      · omega
      · exact h2 d hd
    · rcases h3 with h3 | ⟨d, hd, h3⟩
      · rcases Nat.le_total b c.bottom with h | h
        · right; exact ⟨c, by simp, by omega⟩
        · left; omega
      · right; exact ⟨d, by simp [hd], h3⟩

theorem mem_writtenColumns (t : Tile) (c : Coverage) : c ∈ writtenColumns t ↔ some c ∈ t.coverage := by simp [writtenColumns]

/-- R153: a tile's top is the least top of its written columns and its bottom their greatest bottom; with none, Hc - 1 and 0. -/
theorem tileEnds_spec (hc : Nat) (t : Tile) :
    ((∃ c, some c ∈ t.coverage) →
      (∀ c, some c ∈ t.coverage → (tileEnds hc t).1 ≤ c.top ∧ c.bottom ≤ (tileEnds hc t).2) ∧
      (∃ c, some c ∈ t.coverage ∧ c.top = (tileEnds hc t).1) ∧ ∃ c, some c ∈ t.coverage ∧ c.bottom = (tileEnds hc t).2) ∧
    ((∀ c ∈ t.coverage, c = none) → tileEnds hc t = (hc - 1, 0)) := by
  simp only [← mem_writtenColumns, tileEnds]
  cases hw : writtenColumns t with
  | nil => simp
  | cons d l =>
    obtain ⟨a1, a2, a3⟩ := foldl_least_top l d.top
    obtain ⟨b1, b2, b3⟩ := foldl_greatest_bottom l d.bottom
    refine ⟨fun _ => ⟨?_, ?_, ?_⟩, ?_⟩
    · intro c h; rcases List.mem_cons.1 h with rfl | h
      · exact ⟨a1, b1⟩
      · exact ⟨a2 c h, b2 c h⟩
    · rcases a3 with a3 | ⟨c, hc, a3⟩
      · exact ⟨d, by simp, a3.symm⟩
      · exact ⟨c, by simp [hc], a3⟩
    · rcases b3 with a3 | ⟨c, hc, a3⟩
      · exact ⟨d, by simp, a3.symm⟩
      · exact ⟨c, by simp [hc], a3⟩
    · intro h
      have := (mem_writtenColumns t d).1 (by simp [hw])
      exact absurd (h _ this) (by simp)

/-- The covered span of a column is none where no canvas row is covered; otherwise its ends are covered rows of the canvas and
every covered row lies between them. -/
theorem coveredSpan_spec (m : ColumnMap) (en : MapEntry) (o : Point) (h hc : Nat) :
    let covered := fun q : Nat => q < hc ∧ rowCovered m en o h (q : Int) = true
    (coveredSpan m en o h hc = none ∧ ∀ q, ¬covered q) ∨
      ∃ sp, coveredSpan m en o h hc = some sp ∧ covered sp.top ∧ covered sp.bottom ∧
        ∀ q, covered q → sp.top ≤ q ∧ q ≤ sp.bottom := by
  intro covered
  unfold coveredSpan
  dsimp only
  cases hA : (List.range hc).find? (fun r : Nat => rowCovered m en o h (r : Int)) with
  | none =>
    rw [List.find?_eq_none] at hA
    exact .inl ⟨rfl, fun q hq => hA q (List.mem_range.2 hq.1) hq.2⟩
  | some a =>
    have ha : covered a := by
      have := List.find?_some hA
      exact ⟨List.mem_range.1 (List.mem_of_find?_eq_some hA), this⟩
    cases hB : (List.range hc).reverse.find? (fun r : Nat => rowCovered m en o h (r : Int)) with
    | none =>
      rw [List.find?_eq_none] at hB
      exact absurd ha.2 (hB a (by simpa using ha.1))
    | some b =>
      have hb : covered b := by
        have := List.find?_some hB
        exact ⟨by simpa using List.mem_of_find?_eq_some hB, this⟩
      refine .inr ⟨⟨a, b⟩, rfl, ha, hb, fun q hq => ⟨?_, ?_⟩⟩
      · obtain ⟨-, as, bs, e, hno⟩ := List.find?_eq_some_iff_append.1 hA
        have hs : (as ++ a :: bs).Pairwise (· < ·) := e ▸ List.pairwise_lt_range
        have hm : q ∈ as ++ a :: bs := e ▸ List.mem_range.2 hq.1
        rcases List.mem_append.1 hm with hm | hm
        · have := hno q hm; rw [hq.2] at this; cases this
        · rcases List.mem_cons.1 hm with rfl | hm
          · exact Nat.le_refl _
          · exact Nat.le_of_lt ((List.pairwise_cons.1 (List.pairwise_append.1 hs).2.1).1 q hm)
      · obtain ⟨-, as, bs, e, hno⟩ := List.find?_eq_some_iff_append.1 hB
        have hs : (as ++ b :: bs).Pairwise (· > ·) := e ▸ List.pairwise_reverse.2 List.pairwise_lt_range
        have hm : q ∈ as ++ b :: bs := e ▸ (by simpa using hq.1)
        rcases List.mem_append.1 hm with hm | hm
        · have := hno q hm; rw [hq.2] at this; cases this
        · rcases List.mem_cons.1 hm with rfl | hm
          · exact Nat.le_refl _
          · exact Nat.le_of_lt ((List.pairwise_cons.1 (List.pairwise_append.1 hs).2.1).1 q hm)

/-- R145: a written column keeps its coverage where the frame covers none of its rows, and otherwise has it widened to the span
of the covered ones. -/
theorem coverageAfter_written (i : PaintInputs) (c : Int) (cov : Option Coverage)
    (h1 : firstWritten i.entry.eOld i.entry.band ≤ c) (h2 : c ≤ i.entry.eNew) :
    coverageAfter i c cov =
      (coveredSpan i.map (entryOfColumn i.map i.entry.origin c) i.entry.origin i.frame.record.h i.hc).elim cov
        fun n => some (cov.elim n fun o => ⟨min o.top n.top, max o.bottom n.bottom⟩) := by
  have hx : ¬(c < firstWritten i.entry.eOld i.entry.band ∨ i.entry.eNew < c) := by omega
  unfold coverageAfter columnClass
  cases coveredSpan i.map (entryOfColumn i.map i.entry.origin c) i.entry.origin i.frame.record.h i.hc <;> cases cov <;>
    by_cases he : c ≤ i.entry.eOld <;> simp [hx, he]

end Sys2Proof.Machine
end

