-- ==== Sys2Proof/Laws/Capture.lean ====
section
/-! SUPPORT. Chapter 3's runs and rows: what fitting, pairing and mirroring a run give, and what making rows up gives,
its offers to the detector among it. -/

namespace Sys2Proof.Machine

/-- A fitted run has the length asked for; past the run's end it repeats the last element, and an empty run gives the fill
(R52). -/
theorem fitRun_spec {α : Type} (n : Nat) (fill : α) (run : List α) :
    (fitRun n fill run).length = n ∧
      ∀ x, x < n → (fitRun n fill run).getD x fill = run.getD (min x (run.length - 1)) fill := by
  unfold fitRun
  split
  · rename_i h; simp at h; subst h; simp
  · rename_i y h
    have hr : run ≠ [] := by rintro rfl; simp at h
    have hl : 0 < run.length := List.length_pos_iff.2 hr
    constructor
    · simp; omega
    · intro x hx
      rw [List.getLast?_eq_getElem?] at h
      simp only [List.getD_eq_getElem?_getD]
      rcases Nat.lt_or_ge x run.length with hx2 | hx2
      · rw [List.getElem?_append_left (by simp; omega), Nat.min_eq_left (by omega), List.getElem?_take, if_pos hx]
      · rw [List.getElem?_append_right (by simp; omega), Nat.min_eq_right (by omega), h, List.getElem?_replicate,
          if_pos (by simp; omega)]

/-- The whole pairs of a chroma run, in order; a trailing lone byte gives none (R52). -/
theorem chromaPairs_spec : ∀ l : List Byte, (chromaPairs l).length = l.length / 2 ∧
    ∀ x d, x < l.length / 2 → (chromaPairs l).getD x d = (l.getD (2 * x) 0, l.getD (2 * x + 1) 0)
  | [] => by simp [chromaPairs]
  | [a] => by simp [chromaPairs]
  | a :: b :: l => by
    obtain ⟨h1, h2⟩ := chromaPairs_spec l
    constructor
    · simp [chromaPairs, h1]; omega
    · intro x d hx
      cases x with
      | zero => simp [chromaPairs]
      | succ x =>
        have := h2 x d (by simp at hx; omega)
        simp only [chromaPairs, List.getD_cons_succ, this]
        rw [show 2 * (x + 1) = 2 * x + 1 + 1 by ring, List.getD_cons_succ, List.getD_cons_succ, List.getD_cons_succ]

/-- Mirroring keeps the length and, in a LEFTWARD sweep, takes the element as far from the end (R54). -/
theorem inSceneOrder_spec {α : Type} (d : Direction) (l : List α) (y : α) : (inSceneOrder d l).length = l.length ∧
    ∀ x, x < l.length → (inSceneOrder d l).getD x y = l.getD (if d = .leftward then l.length - 1 - x else x) y := by
  cases d <;> simp [inSceneOrder]
  intro x hx
  rw [List.getElem?_reverse hx]

/-- Rows made up change neither the slot's state nor its record, but for the next expected line (R51). -/
theorem makeUpRows_record (tau : Nat) : ∀ (n : Nat) (f : CapturedFrame), (makeUpRows tau n f).state = f.state ∧
    (makeUpRows tau n f).record = { f.record with nextLine := f.record.nextLine + n }
  | 0, f => ⟨rfl, rfl⟩
  | n + 1, f => by
    obtain ⟨h1, h2⟩ := makeUpRows_record tau n (makeUpRow tau f)
    refine ⟨h1, h2.trans ?_⟩
    simp only [makeUpRow, storeRow, offerStored]
    congr 1
    omega

/-- Rows made up are copies of the last stored luma row (R51). -/
theorem makeUpRows_luma (tau : Nat) : ∀ (n : Nat) (f : CapturedFrame), (makeUpRows tau n f).luma =
    f.luma ++ List.replicate n (f.luma.getLastD (List.replicate f.record.w 0))
  | 0, f => by simp [makeUpRows]
  | n + 1, f => by
    rw [makeUpRows, makeUpRows_luma tau n, List.replicate_succ]
    simp [makeUpRow, storeRow, offerStored]

/-- Rows made up on even lines are copies of the last stored chroma row (R51). -/
theorem makeUpRows_chroma (tau : Nat) : ∀ (n : Nat) (f : CapturedFrame), (makeUpRows tau n f).chroma =
    f.chroma ++ List.replicate ((f.record.nextLine + n + 1) / 2 - (f.record.nextLine + 1) / 2)
      (f.chroma.getLastD (List.replicate (f.record.w / 2) (128, 128)))
  | 0, f => by simp [makeUpRows]
  | n + 1, f => by
    rw [makeUpRows, makeUpRows_chroma tau n]
    simp only [makeUpRow, storeRow, offerStored]
    by_cases h : f.record.nextLine % 2 = 0
    · rw [if_pos h, show (f.record.nextLine + (n + 1) + 1) / 2 - (f.record.nextLine + 1) / 2 =
        ((f.record.nextLine + 1 + n + 1) / 2 - (f.record.nextLine + 1 + 1) / 2) + 1 by omega, List.replicate_succ]
      simp
    · rw [if_neg h]
      congr 2; omega

/-- Each row made up is offered to the detector in its turn (R51). -/
theorem makeUpRows_detection (tau : Nat) : ∀ (n : Nat) (f : CapturedFrame), (makeUpRows tau n f).detection =
    (List.range n).foldl (fun d k =>
      offerRow tau f.record.w f.record.h ((makeUpRows tau n f).luma.take (f.luma.length + k + 1)) d) f.detection
  | 0, f => by simp [makeUpRows]
  | n + 1, f => by
    rw [makeUpRows, makeUpRows_detection tau n, List.range_succ_eq_map, List.foldl_cons, List.foldl_map]
    have h1 : (makeUpRow tau f).detection = offerRow tau f.record.w f.record.h
        ((makeUpRows tau n (makeUpRow tau f)).luma.take (f.luma.length + 0 + 1)) f.detection := by
      rw [makeUpRows_luma]
      simp [makeUpRow, storeRow, offerStored, List.take_append, List.take_of_length_le]
    rw [← h1]
    have h2 : (makeUpRow tau f).luma.length = f.luma.length + 1 := by simp [makeUpRow, storeRow, offerStored]
    have h3 : (makeUpRow tau f).record.w = f.record.w ∧ (makeUpRow tau f).record.h = f.record.h := ⟨rfl, rfl⟩
    have h4 : ∀ k, f.luma.length + 1 + k + 1 = f.luma.length + k.succ + 1 := by intro k; omega
    generalize (makeUpRows tau n (makeUpRow tau f)).luma = rows
    rw [h2, h3.1, h3.2]
    simp only [h4]

/-- The fitted and mirrored luma run is the row that the line gives (R52, R54). -/
theorem lumaRowOf_fitRun (d : Direction) (body : List Byte) (w : Nat) :
    lumaRowOf d body w (inSceneOrder d (fitRun w 0 (lumaRun body))) := by
  obtain ⟨h1, h2⟩ := fitRun_spec w (0 : Byte) (lumaRun body)
  obtain ⟨h3, h4⟩ := inSceneOrder_spec d (fitRun w 0 (lumaRun body)) 0
  refine ⟨by rw [h3, h1], fun x hx => ?_⟩
  rw [h4 x (by omega), h1]
  split
  · exact h2 _ (by omega)
  · exact h2 _ hx

/-- The fitted and mirrored chroma run is the chroma row that the line gives (R52, R54). -/
theorem chromaRowOf_fitRun (d : Direction) (body : List Byte) (w : Nat) :
    chromaRowOf d body w (inSceneOrder d (fitRun (w / 2) (128, 128) (chromaPairs (chromaRun body)))) := by
  obtain ⟨h1, h2⟩ := fitRun_spec (w / 2) ((128, 128) : Byte × Byte) (chromaPairs (chromaRun body))
  obtain ⟨h3, h4⟩ := inSceneOrder_spec d (fitRun (w / 2) (128, 128) (chromaPairs (chromaRun body))) (128, 128)
  obtain ⟨h5, h6⟩ := chromaPairs_spec (chromaRun body)
  have key : ∀ y, y < w / 2 → (fitRun (w / 2) (128, 128) (chromaPairs (chromaRun body))).getD y (128, 128) =
      if (chromaRun body).length < 2 then (128, 128)
      else ((chromaRun body).getD (2 * min y ((chromaRun body).length / 2 - 1)) 0,
        (chromaRun body).getD (2 * min y ((chromaRun body).length / 2 - 1) + 1) 0) := by
    intro y hy
    rw [h2 y hy, h5]
    split
    · have : chromaPairs (chromaRun body) = [] := List.eq_nil_of_length_eq_zero (by rw [h5]; omega)
      simp [this]
    · exact h6 _ _ (by omega)
  refine ⟨by rw [h3, h1], fun x hx => ?_⟩
  rw [h4 x (by omega), h1]
  split
  · rw [key _ (by omega)]
  · rw [key _ hx]

end Sys2Proof.Machine
end

