-- ==== Sys2Proof/Laws/Detector.lean ====
section
/-! SUPPORT. Chapter 4's ring: the longest run of qualifying samples (R63 to R65) and the bits of a code (R66). -/

namespace Sys2Proof.Machine

/-- The term of ring sample k, counted around the ring. -/
def ringTerm (terms : List Int) (k : Nat) : Int := terms.getD (k % 16) 0

/-- R63, R64: at least 9 samples around the ring qualify from `first` on, bounded by samples that do not unless they are the
whole ring. -/
def RingRun (terms : List Int) (first len : Nat) : Prop :=
  9 ≤ len ∧ len ≤ 16 ∧ (∀ j, j < len → 0 < ringTerm terms (first + j)) ∧
    (len < 16 → ringTerm terms (first + len) ≤ 0 ∧ ringTerm terms (first + 15) ≤ 0)

/-- The terms read around the ring from sample i. -/
theorem rotatedFrom_eq (terms : List Int) (h : terms.length = 16) (i : Nat) (hi : i < 16) :
    rotatedFrom i terms = (List.range 16).map fun j => ringTerm terms (i + j) := by
  apply List.ext_getElem
  · simp [rotatedFrom, h]; omega
  · intro j h1 h2
    simp at h2
    simp only [rotatedFrom, ringTerm, List.getElem_map, List.getElem_range]
    by_cases hj : i + j < 16
    · rw [List.getElem_append_left (by simp [h]; omega), List.getElem_drop, Nat.mod_eq_of_lt hj]
      simp [List.getD_eq_getElem?_getD, h, hj]
    · rw [List.getElem_append_right (by simp [h]; omega), List.getElem_take]
      have : (i + j) % 16 = i + j - 16 := by omega
      rw [this]
      have e : j - (List.drop i terms).length = i + j - 16 := by simp [h]; omega
      have e' : j - (16 - i) = i + j - 16 := by omega
      simp [List.getD_eq_getElem?_getD, h, e', show i + j - 16 < 16 by omega]

/-- The positive values from the first on: as many as there are before one that is not positive. -/
theorem takeWhile_range (f : Nat → Int) (n : Nat) : ∃ L, L ≤ n ∧
    ((List.range n).map f).takeWhile (fun t => decide (0 < t)) = (List.range L).map f ∧ (∀ j < L, 0 < f j) ∧ (L < n → f L ≤ 0) := by
  induction n generalizing f with
  | zero => exact ⟨0, by simp⟩
  | succ n ih =>
    rw [List.range_succ_eq_map, List.map_cons, List.map_map]
    by_cases h : 0 < f 0
    · obtain ⟨L, h1, h2, h3, h4⟩ := ih (f ∘ Nat.succ)
      refine ⟨L+1, by omega, ?_, ?_, ?_⟩
      · rw [List.takeWhile_cons, if_pos (by simpa using h), h2, List.range_succ_eq_map, List.map_cons, List.map_map]
      · intro j hj; cases j with
        | zero => exact h
        | succ j => exact h3 j (by omega)
      · intro hl; exact h4 (by omega)
    · refine ⟨0, by omega, ?_, by simp, fun _ => by omega⟩
      rw [List.takeWhile_cons, if_neg (by simpa using h)]; simp

/-- The run from sample i: its length, its terms, and that it stops only at a sample that does not qualify (R63). -/
theorem runFrom_eq (terms : List Int) (h : terms.length = 16) (i : Nat) (hi : i < 16) : ∃ L, L ≤ 16 ∧
    runFrom i terms = (List.range L).map (fun j => ringTerm terms (i + j)) ∧
    (∀ j < L, 0 < ringTerm terms (i + j)) ∧ (L < 16 → ringTerm terms (i + L) ≤ 0) := by
  unfold runFrom; rw [rotatedFrom_eq terms h i hi]; exact takeWhile_range _ 16

/-- The search for the longest run answers one that none of the runs searched is longer than (R63). -/
theorem foldl_longest (terms : List Int) : ∀ (l : List Nat) (b : List Int),
    let r := l.foldl (fun best i => if best.length < (runFrom i terms).length then runFrom i terms else best) b
    b.length ≤ r.length ∧ (∀ i ∈ l, (runFrom i terms).length ≤ r.length) ∧ (r = b ∨ ∃ i ∈ l, r = runFrom i terms) := by
  intro l
  induction l with
  | nil => simp
  | cons i l ih =>
    intro b
    obtain ⟨h1,h2,h3⟩ := ih (if b.length < (runFrom i terms).length then runFrom i terms else b)
    simp only [List.foldl_cons]
    refine ⟨?_, ?_, ?_⟩
    · split at h1 <;> rename_i hh <;> simp only [hh, if_true, if_false] <;> omega
    · intro k hk; rcases List.mem_cons.1 hk with rfl | hk
      · split at h1 <;> rename_i hh <;> simp only [hh, if_true, if_false] <;> omega
      · exact h2 k hk
    · rcases h3 with h3 | ⟨k, hk, h3⟩
      · rw [h3]; split
        · right; exact ⟨i, by simp, rfl⟩
        · left; rfl
      · right; exact ⟨k, by simp [hk], h3⟩

/-- Sixteen samples on, the ring is where it was. -/
theorem ringTerm_mod (terms) (a b : Nat) (h : a % 16 = b % 16) : ringTerm terms a = ringTerm terms b := by simp [ringTerm, h]

/-- R63, R65: the longest run has at least 9 samples and this sum exactly when some run of at least 9, bounded as `RingRun` says,
has it. -/
theorem longestRun_spec (terms : List Int) (h : terms.length = 16) (S : Int) :
    (9 ≤ (longestRun terms).length ∧ (longestRun terms).sum = S) ↔
      ∃ first len, RingRun terms first len ∧ S = ((List.range len).map fun j => ringTerm terms (first + j)).sum := by
  obtain ⟨_, hmax, hex⟩ := foldl_longest terms (List.range 16) []
  have hfold : longestRun terms = (List.range 16).foldl
      (fun best i => if best.length < (runFrom i terms).length then runFrom i terms else best) [] := rfl
  rw [← hfold] at hmax hex
  have A : 9 ≤ (longestRun terms).length → ∃ i L, i < 16 ∧ RingRun terms i L ∧
      longestRun terms = (List.range L).map fun j => ringTerm terms (i + j) := by
    intro h9
    rcases hex with hex | ⟨i, hi, hex⟩
    · rw [hex] at h9; simp at h9
    · have hi' : i < 16 := by simpa using hi
      obtain ⟨L, a, b, c, d⟩ := runFrom_eq terms h i hi'
      have hL : (longestRun terms).length = L := by rw [hex, b]; simp
      refine ⟨i, L, hi', ⟨by omega, a, c, fun hl => ⟨d hl, ?_⟩⟩, by rw [hex, b]⟩
      by_contra hc
      have hk : (i + 15) % 16 < 16 := Nat.mod_lt _ (by decide)
      obtain ⟨L2, a2, b2, c2, d2⟩ := runFrom_eq terms h _ hk
      have : L2 ≤ L := by
        have := hmax _ (List.mem_range.2 hk); rw [b2, hL] at this; simpa using this
      rcases Nat.eq_zero_or_pos L2 with z | z
      · have := d2 (by omega); rw [z, ringTerm_mod terms _ (i + 15) (by omega)] at this; omega
      · have := d2 (by omega)
        rw [ringTerm_mod terms _ (i + (L2 - 1)) (by omega)] at this
        have := c (L2-1) (by omega); omega
  constructor
  · rintro ⟨h9, hs⟩
    obtain ⟨i, L, _, hr, he⟩ := A h9
    exact ⟨i, L, hr, by rw [← hs, he]⟩
  · rintro ⟨first, len, hr, hS⟩
    have h9 : 9 ≤ (longestRun terms).length := by
      have hk : first % 16 < 16 := Nat.mod_lt _ (by decide)
      obtain ⟨L2, a2, b2, c2, d2⟩ := runFrom_eq terms h _ hk
      have hh := hmax _ (List.mem_range.2 hk); rw [b2] at hh; simp only [List.length_map, List.length_range] at hh
      by_contra hc
      have := d2 (by omega)
      rw [ringTerm_mod terms _ (first + L2) (by omega)] at this
      have := hr.2.2.1 L2 (by have := hr.1; omega); omega
    refine ⟨h9, ?_⟩
    obtain ⟨i, L, hi, hr2, he⟩ := A h9
    rw [he, hS]
    by_cases h16 : len = 16
    · subst h16
      have hL : L = 16 := by
        by_contra hc
        have := (hr2.2.2.2 (by have := hr2.2.1; omega)).1
        have k : ∃ j, j < 16 ∧ (first + j) % 16 = (i + L) % 16 :=
          ⟨((i + L) % 16 + 16 - first % 16) % 16, Nat.mod_lt _ (by decide), by omega⟩
        obtain ⟨j, hj, hk⟩ := k
        have := hr.2.2.1 j hj
        rw [ringTerm_mod terms _ _ hk] at this; omega
      subst hL
      have key : ∀ k, ((List.range 16).map fun j => ringTerm terms (k + j)).sum = ((List.range 16).map fun j => ringTerm terms j).sum := by
        intro k
        induction k with
        | zero => simp
        | succ k ih =>
          rw [← ih]
          have e1 : ((List.range 17).map fun j => ringTerm terms (k + j)).sum =
              ringTerm terms k + ((List.range 16).map fun j => ringTerm terms (k + 1 + j)).sum := by
            rw [List.range_succ_eq_map, List.map_cons, List.map_map, List.sum_cons]; simp; congr 2
            funext a; simp; congr 1; omega
          have e2 : ((List.range 17).map fun j => ringTerm terms (k + j)).sum =
              ((List.range 16).map fun j => ringTerm terms (k + j)).sum + ringTerm terms k := by
            rw [List.range_succ, List.map_append, List.sum_append]; simp; exact ringTerm_mod terms _ _ (by omega)
          omega
      rw [key i, key first]
    · have hlen : len < 16 := by have := hr.2.1; omega
      have hb := hr.2.2.2 hlen
      have hL16 : L < 16 := by
        by_contra hc
        have hL : L = 16 := by have := hr2.2.1; omega
        subst hL
        have k : ∃ j, j < 16 ∧ (i + j) % 16 = (first + len) % 16 :=
          ⟨((first + len) % 16 + 16 - i % 16) % 16, Nat.mod_lt _ (by decide), by omega⟩
        obtain ⟨j, hj, hk⟩ := k
        have := hr2.2.2.1 j hj
        rw [ringTerm_mod terms _ _ hk] at this; omega
      have hb2 := hr2.2.2.2 hL16
      have hi9 := hr2.1
      have hf9 := hr.1
      have d0 : i % 16 = first % 16 := by
        by_contra hne
        obtain ⟨d, hd1, hd2, hd3⟩ : ∃ d, 0 < d ∧ d < 16 ∧ (first + d) % 16 = i % 16 :=
          ⟨(i % 16 + 16 - first % 16) % 16, by omega, by omega, by omega⟩
        by_cases hdl : d - 1 < len
        · have := hr.2.2.1 (d-1) hdl
          rw [ringTerm_mod terms _ (i + 15) (by omega)] at this
          omega
        · have := hr2.2.2.1 (15 - d) (by omega)
          rw [ringTerm_mod terms _ (first + 15) (by omega)] at this
          omega
      have hlenL : L = len := by
        rcases Nat.lt_trichotomy L len with c | c | c
        · have := hr.2.2.1 L c; rw [ringTerm_mod terms _ (i + L) (by omega)] at this; omega
        · exact c
        · have := hr2.2.2.1 len c; rw [ringTerm_mod terms _ (first + len) (by omega)] at this; omega
      subst hlenL
      congr 1
      apply List.map_congr_left; intro a _; exact ringTerm_mod terms _ _ (by omega)

/-- The bits of a sum of distinct powers of two. -/
theorem sum_bits (p : Nat → Bool) : ∀ n, ((List.range n).map fun i => if p i then 2 ^ i else 0).sum < 2 ^ n ∧
    ∀ i, (((List.range n).map fun i => if p i then 2 ^ i else 0).sum).testBit i = (decide (i < n) && p i)
  | 0 => by simp
  | n + 1 => by
    obtain ⟨h1, h2⟩ := sum_bits p n
    rw [List.range_succ, List.map_append, List.sum_append]
    simp only [List.map_cons, List.map_nil, List.sum_cons, List.sum_nil, Nat.add_zero]
    have e : ∀ S : Nat, S + (if p n = true then 2 ^ n else 0) = 2 ^ n * (p n).toNat + S := by
      intro S; cases p n <;> simp [Nat.add_comm]
    rw [e]
    constructor
    · have : (p n).toNat ≤ 1 := Bool.toNat_le _
      have : 2 ^ n * (p n).toNat ≤ 2 ^ n := by simpa using Nat.mul_le_mul_left (2 ^ n) this
      rw [Nat.pow_succ]; omega
    · intro i
      rw [Nat.testBit_two_pow_mul_add _ h1]
      split
      · rename_i h; rw [h2]; simp [h, Nat.lt_succ_of_lt h]
      · rename_i h
        rcases Nat.eq_or_lt_of_le (Nat.le_of_not_lt h) with rfl | h'
        · cases p n <;> simp
        · rw [Nat.testBit_lt_two_pow]
          · simp; omega
          · have : (p n).toNat ≤ 1 := Bool.toNat_le _
            have : 2 ≤ 2 ^ (i - n) := by
              calc 2 = 2 ^ 1 := rfl
                _ ≤ _ := Nat.pow_le_pow_right (by decide) (by omega)
            omega

/-- Bit i of a code is what its rule gives for sample i (R66). -/
theorem codeOf_bit (p : Nat → Bool) (i : Nat) (hi : i < 16) : (codeOf p).getLsbD i = p i := by
  unfold codeOf
  rw [BitVec.getLsbD_ofNat, (sum_bits p 16).2]; simp [hi]

end Sys2Proof.Machine
end

