-- ==== Sys2Proof/Laws/Image.lean ====
section
/-! SUPPORT. Slot images: the canonical form is kept by every operation that makes an image, and what an image reads as; what
validation finds. -/

namespace Sys2Proof.Machine

theorem imageRead_of_above : ∀ (img : Image) (a : Nat), (∀ p ∈ img, p.1 ≠ a) → imageRead img a = erasedWord
  | [], _, _ => rfl
  | (b, w) :: rest, a, h => by
    have hb : b ≠ a := h (b, w) (by simp)
    simp only [imageRead, if_neg hb]
    exact imageRead_of_above rest a fun p hp => h p (by simp [hp])

/-- The words an image made from a function lists, from address `k` on, `n` of them. -/
theorem imageRead_range (f : Nat → Half) : ∀ (n k a : Nat), k ≤ a → a < k + n →
    imageRead ((List.range' k n).filterMap fun a => if f a = erasedWord then none else some (a, f a)) a = f a
  | 0, k, a, h1, h2 => by omega
  | n + 1, k, a, h1, h2 => by
    rw [List.range'_succ, List.filterMap_cons]
    by_cases hk : k = a
    · subst hk
      by_cases hf : f k = erasedWord
      · rw [if_pos hf]
        rw [imageRead_of_above, hf]
        intro p hp
        simp only [List.mem_filterMap, List.mem_range'_1] at hp
        obtain ⟨b, hb, hbp⟩ := hp
        split at hbp
        · cases hbp
        · cases hbp; dsimp only; omega
      · simp [if_neg hf, imageRead]
    · have ih := imageRead_range f n (k + 1) a (by omega) (by omega)
      split
      · exact ih
      · rename_i p hp
        split at hp
        · cases hp
        · cases hp; simp only [imageRead, if_neg hk]; exact ih

/-- The image of a function reads as it, within the image's size (R186). -/
theorem imageRead_imageOf (f : Nat → Half) {a : Nat} (h : a < imageSize) : imageRead (imageOf f) a = f a := by
  unfold imageOf
  rw [List.range_eq_range']
  exact imageRead_range f imageSize 0 a (by omega) (by omega)

theorem imageRead_imageOfWords (ws : List Half) {a : Nat} (h : a < imageSize) :
    imageRead (imageOfWords ws) a = ws.getD a erasedWord := imageRead_imageOf _ h

@[simp] theorem imageRead_blank (a : Nat) : imageRead blankImage a = erasedWord := rfl

/-- An image made from a function is in canonical form. -/
theorem imageOf_wf (f : Nat → Half) : (imageOf f).wf := by
  constructor
  · unfold imageOf
    refine List.Pairwise.filterMap _ ?_ (List.pairwise_lt_range (n := imageSize))
    intro a b hab p hp q hq
    simp only [Option.ite_none_left_eq_some, Option.some.injEq] at hp hq
    rw [← hp.2, ← hq.2]; exact hab
  · intro p hp
    simp only [imageOf, List.mem_filterMap, List.mem_range, Option.ite_none_left_eq_some, Option.some.injEq] at hp
    obtain ⟨a, ha, hf, rfl⟩ := hp
    exact ⟨ha, hf⟩

theorem imageOfWords_wf (ws : List Half) : (imageOfWords ws).wf := imageOf_wf _

theorem tornImage_wf (n : Nat) : (tornImage n).wf := imageOf_wf _

theorem blankImage_wf : blankImage.wf := ⟨.nil, by simp [blankImage]⟩

/-- In a canonical image no listed address lies below the head's, so the head is the first word that is not erased. -/
theorem imageRead_below_head {p : Nat × Half} {rest : Image} (h : Image.wf (p :: rest)) {a : Nat} (ha : a < p.1) :
    imageRead (p :: rest) a = erasedWord := by
  refine imageRead_of_above _ _ fun q hq => ?_
  rcases List.mem_cons.1 hq with rfl | hq
  · omega
  · have := (List.pairwise_cons.1 h.1).1 q hq; omega

/-- The store's slots at reset are in canonical form. -/
theorem delivered_sound : Store.delivered.sound := by
  intro i
  have : Store.delivered.slots.get i = ProfileSlot.delivered := by
    fin_cases i <;> rfl
  rw [this]
  exact ⟨by decide, blankImage_wf⟩

/-- What stands before entry n of a list: the entry before it, `prev` before the first. -/
def entryBefore {α : Type} (prev : Option α) (l : List α) (n : Nat) : Option α := if n = 0 then prev else l[n - 1]?

/-- Validation of entries that all pass finds none (R180). -/
theorem firstBad_none {α : Type} (ok : Option α → α → Bool) : ∀ (l : List α) (prev : Option α) (i : Nat),
    (∀ n e, l[n]? = some e → ok (entryBefore prev l n) e = true) → firstBad ok prev i l = none
  | [], _, _, _ => rfl
  | e :: l, prev, i, h => by
    have h0 := h 0 e rfl
    simp only [entryBefore, if_true] at h0
    rw [firstBad, if_pos h0]
    refine firstBad_none ok l _ _ fun n x hx => ?_
    have := h (n + 1) x (by simpa using hx)
    cases n <;> simpa [entryBefore] using this

/-- Validation finds the lowest entry that fails (R180). -/
theorem firstBad_some {α : Type} (ok : Option α → α → Bool) : ∀ (l : List α) (prev : Option α) (i n : Nat) (e : α),
    l[n]? = some e → ok (entryBefore prev l n) e = false →
    (∀ k, k < n → ∀ x, l[k]? = some x → ok (entryBefore prev l k) x = true) → firstBad ok prev i l = some (i + n)
  | [], _, _, n, e, h, _, _ => by simp at h
  | y :: l, prev, i, 0, e, h, hb, _ => by
    simp only [List.getElem?_cons_zero, Option.some.injEq] at h
    subst h
    simp only [entryBefore, if_true] at hb
    simp [firstBad, hb]
  | y :: l, prev, i, n + 1, e, h, hb, hk => by
    have h0 := hk 0 (by omega) y rfl
    simp only [entryBefore, if_true] at h0
    rw [firstBad, if_pos h0, firstBad_some ok l (some y) (i + 1) n e (by simpa using h) ?_ ?_]
    · congr 1; omega
    · cases n <;> simpa [entryBefore] using hb
    · intro k hk2 x hx
      have := hk (k + 1) (by omega) x (by simpa using hx)
      cases k <;> simpa [entryBefore] using this

end Sys2Proof.Machine
end

