-- ==== Sys2Proof/Laws/Matching.lean ====
section
/-! SUPPORT. Chapter 6's searches and votes: what the scan finds, and that it finds the best, what a bin of the
vote grid holds, a bin that wins outright, and a rotated code's bits. -/

namespace Sys2Proof.Machine

/-- The best anchor after one more is examined (R110). -/
theorem scan_best (n d : Nat) (best : Option Claim) (c : Claim) (h : (match best with
      | none => some ⟨n, d⟩
      | some b => if d < b.distance then some ⟨n, d⟩ else some b) = some c) : best = some c ∨ c = ⟨n, d⟩ := by
  cases best with
  | none => exact .inr (Option.some.inj h).symm
  | some b =>
    dsimp only at h
    split at h
    · exact .inr (Option.some.inj h).symm
    · exact .inl h

/-- The best anchor a scan answers is the one it began with, or an eligible anchor behind it with its own distance (R110). -/
theorem scan_spec (ok : Anchor → Bool) (dist : Anchor → Nat) (early : Nat) : ∀ (l : List Anchor) (n : Nat) (best : Option Claim)
    (c : Claim), scan ok dist early n best l = some c →
    best = some c ∨ ∃ (j : Nat) (a : Anchor), l[j]? = some a ∧ ok a = true ∧ c.index = n + j ∧ c.distance = dist a
  | [], n, best, c, h => .inl (by simpa [scan] using h)
  | a :: rest, n, best, c, h => by
    unfold scan at h
    by_cases ha : ok a = true
    · rw [if_pos ha] at h
      have key : ∀ c', _ = some c' → best = some c' ∨ c' = ⟨n, dist a⟩ := fun c' => scan_best n (dist a) best c'
      dsimp only at h
      split at h
      · rcases key c h with h | h
        · exact .inl h
        · exact .inr ⟨0, a, rfl, ha, by rw [h]; rfl, by rw [h]⟩
      · rcases scan_spec ok dist early rest (n + 1) _ c h with h | ⟨j, a', hj, h1, h2, h3⟩
        · rcases key c h with h | h
          · exact .inl h
          · exact .inr ⟨0, a, rfl, ha, by rw [h]; rfl, by rw [h]⟩
        · exact .inr ⟨j + 1, a', by simpa using hj, h1, by omega, h3⟩
    · rw [if_neg ha] at h
      rcases scan_spec ok dist early rest (n + 1) best c h with h | ⟨j, a', hj, h1, h2, h3⟩
      · exact .inl h
      · exact .inr ⟨j + 1, a', by simpa using hj, h1, by omega, h3⟩

/-- Entry n of the grid counts the votes for its bin (R114). -/
theorem voteGrid_getD (bins : List Point) {n : Nat} (h : n < 512) : (voteGrid bins).getD n 0 = bins.count (gridBin n) := by
  simp [voteGrid, List.getD_eq_getElem?_getD, h]

theorem voteGrid_length (bins : List Point) : (voteGrid bins).length = 512 := by simp [voteGrid]

/-- Once a bin with more votes than every other is the best, it stays so; and when the search meets it, it becomes so (R115). -/
theorem foldl_most {votes : List Nat} {w : Nat} (most : ∀ n, n < 512 → n ≠ w → votes.getD n 0 < votes.getD w 0) :
    ∀ (l : List Nat) (b : Nat), (∀ n ∈ l, n < 512) → b < 512 → (b = w ∨ w ∈ l) →
      l.foldl (fun best n => if binBeats votes n best then n else best) b = w
  | [], b, _, _, h => by simpa using h
  | n :: l, b, hl, hb, h => by
    have hn : n < 512 := hl n (by simp)
    rw [List.foldl_cons]
    refine foldl_most most l _ (fun k hk => hl k (by simp [hk])) (by split <;> assumption) ?_
    by_cases hbw : b = w
    · subst hbw
      left
      rw [if_neg]
      simp only [binBeats, decide_eq_true_eq, not_or]
      by_cases hnb : n = b
      · subst hnb
        exact ⟨by omega, fun h => by omega⟩
      · have := most n hn hnb
        exact ⟨by omega, fun h => by omega⟩
    · rcases h with h | h
      · exact absurd h hbw
      · rcases List.mem_cons.1 h with h | h
        · subst h
          left
          rw [if_pos]
          simp only [binBeats, decide_eq_true_eq]
          exact .inl (most b hb hbw)
        · exact .inr h

/-- A bin with more votes than every other wins (R115). -/
theorem winningBin_of_most {votes : List Nat} {w : Nat} (hw : w < 512)
    (most : ∀ n, n < 512 → n ≠ w → votes.getD n 0 < votes.getD w 0) : winningBin votes = w :=
  foldl_most most _ 0 (fun _ h => List.mem_range.1 h) (by omega) (.inr (List.mem_range.2 hw))

/-- Bit i of a rotated code is bit (i - r) mod 16 of the original (R107). -/
theorem rotateCode_bit (r : BitVec 4) (code : Half) {b : Nat} (hb : b < 16) :
    (rotateCode r code).getLsbD b = code.getLsbD ((b + 16 - r.toNat) % 16) := by
  have hr := r.isLt
  have hm : r.toNat % 16 = r.toNat := Nat.mod_eq_of_lt (by omega)
  simp only [rotateCode, BitVec.getLsbD_rotateLeft, hm]
  by_cases h : b < r.toNat
  · rw [show (b + 16 - r.toNat) % 16 = 16 - r.toNat + b by omega]; simp [h]
  · rw [show (b + 16 - r.toNat) % 16 = b - r.toNat by omega]; simp [h, hb]

/-- R109 to R111: anchor n, the eligible one that a search of `l` in order settles on: the first at a distance of at most `early`,
or with none such the nearest, of equally near ones the first. -/
def bestIn (ok : Anchor → Bool) (dist : Anchor → Nat) (early : Nat) (l : List Anchor) (n : Nat) (a : Anchor) : Prop :=
  (l[n]? = some a ∧ ok a = true) ∧
    ((dist a ≤ early ∧ ∀ m b, m < n → (l[m]? = some b ∧ ok b = true) → early < dist b) ∨
      ∀ m b, (l[m]? = some b ∧ ok b = true) → early < dist b ∧ dist a ≤ dist b ∧ (m < n → dist a < dist b))

/-- R109 to R111: a scan that has passed `pre`, whose best it brings along, answers none where no anchor is eligible, and otherwise
the one that `bestIn` names, with its distance. -/
theorem scan_finds_best (ok : Anchor → Bool) (dist : Anchor → Nat) (early : Nat) :
    ∀ (pre l : List Anchor) (best : Option Claim),
    (∀ (m : Nat) (b : Anchor), (pre[m]? = some b ∧ ok b = true) → early < dist b) →
    ((best = none ∧ ∀ a ∈ pre, ok a = false) ∨ ∃ n a, bestIn ok dist early pre n a ∧ best = some ⟨n, dist a⟩) →
    ((scan ok dist early pre.length best l = none ∧ ∀ a ∈ pre ++ l, ok a = false) ∨
      ∃ n a, bestIn ok dist early (pre ++ l) n a ∧ scan ok dist early pre.length best l = some ⟨n, dist a⟩)
  | pre, [], best, _, h => by simpa [scan] using h
  | pre, x :: l, best, he, h => by
    have hx : (pre ++ [x])[pre.length]? = some x := by simp
    have hpre : ∀ m b, (pre ++ [x])[m]? = some b → m ≠ pre.length → pre[m]? = some b := by
      intro m b hm hne
      rcases Nat.lt_or_ge m pre.length with c | c
      · rwa [List.getElem?_append_left c] at hm
      · rw [List.getElem?_append_right c, List.getElem?_eq_none (by simp; omega)] at hm; cases hm
    have happ : pre ++ x :: l = (pre ++ [x]) ++ l := by simp
    unfold scan
    by_cases hk : ok x = true
    · rw [if_pos hk]
      have stop : dist x ≤ early → bestIn ok dist early (pre ++ x :: l) pre.length x := by
        intro hearly
        refine ⟨⟨by simp, hk⟩, .inl ⟨hearly, ?_⟩⟩
        rintro m b hm ⟨h1, h2⟩
        rw [List.getElem?_append_left hm] at h1; exact he m b ⟨h1, h2⟩
      have he' : ¬ dist x ≤ early → ∀ (m : Nat) (b : Anchor),
          ((pre ++ [x])[m]? = some b ∧ ok b = true) → early < dist b := by
        rintro hn m b ⟨h1, h2⟩
        by_cases hm : m = pre.length
        · subst hm; rw [hx] at h1; cases h1; omega
        · exact he m b ⟨hpre m b h1 hm, h2⟩
      have go : ∀ best', ¬ dist x ≤ early → (∃ n a, bestIn ok dist early (pre ++ [x]) n a ∧ best' = some ⟨n, dist a⟩) →
          ((scan ok dist early (pre.length + 1) best' l = none ∧ ∀ a ∈ pre ++ x :: l, ok a = false) ∨
            ∃ n a, bestIn ok dist early (pre ++ x :: l) n a ∧ scan ok dist early (pre.length + 1) best' l = some ⟨n, dist a⟩) := by
        intro best' hn hb
        have := scan_finds_best ok dist early (pre ++ [x]) l best' (he' hn) (.inr hb)
        rw [happ]; simpa using this
      rcases h with ⟨rfl, hno⟩ | ⟨n, a, hb, rfl⟩
      · dsimp only
        split
        · exact .inr ⟨pre.length, x, stop ‹_›, rfl⟩
        · rename_i hearly
          refine go _ hearly ⟨pre.length, x, ⟨⟨hx, hk⟩, .inr ?_⟩, rfl⟩
          rintro m b ⟨h1, h2⟩
          by_cases hm : m = pre.length
          · subst hm; rw [hx] at h1; cases h1; exact ⟨by omega, by omega, by omega⟩
          · have := hno b (List.mem_of_getElem? (hpre m b h1 hm)); rw [this] at h2; cases h2
      · have hnl : n < pre.length := (List.getElem?_eq_some_iff.1 hb.1.1).1
        have hea := he n a hb.1
        have hall : ∀ (m : Nat) (b : Anchor), (pre[m]? = some b ∧ ok b = true) →
            early < dist b ∧ dist a ≤ dist b ∧ (m < n → dist a < dist b) := by
          rcases hb.2 with c | c
          · omega
          · exact c
        dsimp only
        split
        · rename_i hearly
          exact .inr ⟨pre.length, x, stop hearly, by rw [if_pos (by omega)]⟩
        · rename_i hearly
          refine go _ hearly ?_
          split
          · rename_i hlt
            refine ⟨pre.length, x, ⟨⟨hx, hk⟩, .inr ?_⟩, rfl⟩
            rintro m b ⟨h1, h2⟩
            by_cases hm : m = pre.length
            · subst hm; rw [hx] at h1; cases h1; exact ⟨by omega, by omega, by omega⟩
            · have := hall m b ⟨hpre m b h1 hm, h2⟩; exact ⟨by omega, by omega, by omega⟩
          · rename_i hlt
            refine ⟨n, a, ⟨⟨by rw [List.getElem?_append_left hnl]; exact hb.1.1, hb.1.2⟩, .inr ?_⟩, rfl⟩
            rintro m b ⟨h1, h2⟩
            by_cases hm : m = pre.length
            · subst hm; rw [hx] at h1; cases h1; exact ⟨by omega, by omega, by omega⟩
            · exact hall m b ⟨hpre m b h1 hm, h2⟩
    · rw [if_neg hk]
      have hkf : ok x = false := by simpa using hk
      have := scan_finds_best ok dist early (pre ++ [x]) l best ?_ ?_
      · rw [happ]; simpa using this
      · rintro m b ⟨h1, h2⟩
        by_cases hm : m = pre.length
        · subst hm; rw [hx] at h1; cases h1; exact absurd h2 hk
        · exact he m b ⟨hpre m b h1 hm, h2⟩
      · rcases h with ⟨rfl, hno⟩ | ⟨n, a, hb, rfl⟩
        · left; refine ⟨rfl, ?_⟩
          intro a ha; rcases List.mem_append.1 ha with c | c
          · exact hno a c
          · rcases List.mem_singleton.1 c with rfl; exact hkf
        · right
          have hnl : n < pre.length := (List.getElem?_eq_some_iff.1 hb.1.1).1
          refine ⟨n, a, ⟨⟨by rw [List.getElem?_append_left hnl]; exact hb.1.1, hb.1.2⟩, ?_⟩, rfl⟩
          rcases hb.2 with c | c
          · have := he n a hb.1; omega
          · right; rintro m b ⟨h1, h2⟩
            by_cases hm : m = pre.length
            · subst hm; rw [hx] at h1; cases h1; exact absurd h2 hk
            · exact c m b ⟨hpre m b h1 hm, h2⟩

/-- At most one anchor is the best. -/
theorem bestIn_unique {ok : Anchor → Bool} {dist : Anchor → Nat} {early : Nat} {l : List Anchor} {n m : Nat} {a b : Anchor}
    (h1 : bestIn ok dist early l n a) (h2 : bestIn ok dist early l m b) : n = m ∧ a = b := by
  have key : n = m := by
    rcases h1 with ⟨e1, h1⟩; rcases h2 with ⟨e2, h2⟩
    rcases Nat.lt_trichotomy n m with c | c | c
    · exfalso
      rcases h1 with ⟨x, y⟩ | x <;> rcases h2 with ⟨z, w⟩ | z
      · have := w n a c e1; omega
      · have := z n a e1; omega
      · have := x m b e2; omega
      · have := x m b e2; have := z n a e1; have := this.2.2 c; omega
    · exact c
    · exfalso
      rcases h1 with ⟨x, y⟩ | x <;> rcases h2 with ⟨z, w⟩ | z
      · have := y m b c e2; omega
      · have := z n a e1; omega
      · have := x m b e2; omega
      · have := z n a e1; have := x m b e2; have := this.2.2 c; omega
  subst key
  refine ⟨rfl, ?_⟩
  have := h1.1.1.symm.trans h2.1.1; cases this; rfl

/-- An update at one place of a list changes that place alone. -/
theorem updateAt_mapIdx {α : Type} (l : List α) (i : Nat) (f : α → α) :
    updateAt l i f = l.mapIdx fun m b => if m = i then f b else b := by
  unfold updateAt
  apply List.ext_getElem?
  intro j
  split
  · rename_i h
    simp only [List.getElem?_mapIdx]
    by_cases hj : j = i
    · subst hj; simp [h]
    · simp [hj]
  · rename_i a h
    simp only [List.getElem?_mapIdx, List.getElem?_set]
    by_cases hj : j = i
    · subst hj
      have := (List.getElem?_eq_some_iff.1 h).1
      have hh := (List.getElem?_eq_some_iff.1 h).2
      simp [this, hh]
    · simp [hj, Ne.symm hj]

end Sys2Proof.Machine
end

