-- ==== Sys2Proof/Laws/Projection.lean ====
section
/-! SUPPORT. The covered rows of a canvas column lie in the window that `overhang` searches (R90, R91); which map entry is the nearest
(R84). -/

namespace Sys2Proof.Machine

/-- A scale of at least 1 moves a distance from the centre row no nearer to it. -/
theorem scaled_ge {d t : Int} (ht : 4096 ≤ t) (hd : 0 ≤ d) : d ≤ (d * t + 2048) / 4096 := by
  have h : d * 4096 ≤ d * t := Int.mul_le_mul_of_nonneg_left ht hd
  omega

theorem scaled_le {d t : Int} (ht : 4096 ≤ t) (hd : d ≤ 0) : (d * t + 2048) / 4096 ≤ d := by
  have h : d * t ≤ d * 4096 := mul_le_mul_of_nonpos_left ht hd
  omega

/-- Every covered row of a column whose t is at least 4096 lies in the window, when the centre row is a row of the frame. -/
theorem rowCovered_window {m : ColumnMap} {e : MapEntry} {o : Point} {h : Nat} {r : Int} (ht : 4096 ≤ e.t) (hy : m.yc < h)
    (hc : rowCovered m e o h r = true) : r ∈ runWindow m o h := by
  have hc' : 0 ≤ sourceRow m e o r ∧ sourceRow m e o r < h := by simpa [rowCovered] using hc
  have ht' : (4096 : Int) ≤ e.t := by omega
  have lower : -((h : Int) + 2) ≤ r - (o.y + 4 * m.yc) / 4 := by
    by_contra hn
    have hd : 4 * r - o.y - 4 * m.yc ≤ 0 := by omega
    have := scaled_le ht' hd
    have h1 := hc'.1
    unfold sourceRow at h1
    dsimp only at h1
    omega
  have upper : r - (o.y + 4 * m.yc) / 4 ≤ (h : Int) + 2 := by
    by_contra hn
    have hd : 0 ≤ 4 * r - o.y - 4 * m.yc := by omega
    have := scaled_ge ht' hd
    have h1 := hc'.2
    unfold sourceRow at h1
    dsimp only at h1
    omega
  unfold runWindow
  rw [List.mem_map]
  exact ⟨(r - ((o.y + 4 * m.yc) / 4 - (h + 2))).toNat, by rw [List.mem_range]; omega, by omega⟩

/-- The nearest entry from a list on: the best so far where none is nearer, else the first of the nearest (R84). -/
theorem nearestFrom_spec (x : Nat) : ∀ (l : List MapEntry) (kb : Nat) (best : MapEntry) (k : Nat),
    let p := nearestFrom x kb best k l
    (p = (kb, best) ∧ ∀ e ∈ l, xsDistance x best ≤ xsDistance x e) ∨
      ∃ j, p.1 = k + j ∧ l[j]? = some p.2 ∧ xsDistance x p.2 < xsDistance x best ∧
        ∀ i e, l[i]? = some e → xsDistance x p.2 ≤ xsDistance x e ∧ (xsDistance x p.2 = xsDistance x e → j ≤ i)
  | [], _, _, _ => by simp [nearestFrom]
  | e :: l, kb, best, k => by
    simp only [nearestFrom]
    split
    · rename_i hlt
      rcases nearestFrom_spec x l k e (k + 1) with ⟨h1, h2⟩ | ⟨j, h1, h2, h3, h4⟩
      · refine .inr ⟨0, by rw [h1]; simp, by rw [h1]; simp, by rw [h1]; exact hlt, fun i y hy => ?_⟩
        rw [h1]
        cases i with
        | zero => cases hy; simp
        | succ i => exact ⟨h2 y (List.mem_of_getElem? (by simpa using hy)), fun _ => by omega⟩
      · refine .inr ⟨j + 1, by omega, by simpa using h2, by omega, fun i y hy => ?_⟩
        cases i with
        | zero => cases hy; exact ⟨by omega, by omega⟩
        | succ i => have := h4 i y (by simpa using hy); exact ⟨this.1, fun q => by have := this.2 q; omega⟩
    · rename_i hlt
      rcases nearestFrom_spec x l kb best (k + 1) with ⟨h1, h2⟩ | ⟨j, h1, h2, h3, h4⟩
      · refine .inl ⟨h1, fun y hy => ?_⟩
        rcases List.mem_cons.1 hy with rfl | hy
        · omega
        · exact h2 y hy
      · refine .inr ⟨j + 1, by omega, by simpa using h2, by omega, fun i y hy => ?_⟩
        cases i with
        | zero => cases hy; exact ⟨by omega, by omega⟩
        | succ i => have := h4 i y (by simpa using hy); exact ⟨this.1, fun q => by have := this.2 q; omega⟩

/-- The entry k* of a map with entries: none lies nearer, and of equally near ones it is the lowest (R84). -/
theorem nearestEntry_spec {m : ColumnMap} (x : Nat) (h : m.entries ≠ []) :
    m.entries[(nearestEntry m x).1]? = some (nearestEntry m x).2 ∧
      ∀ i e, m.entries[i]? = some e → xsDistance x (nearestEntry m x).2 ≤ xsDistance x e ∧
        (xsDistance x (nearestEntry m x).2 = xsDistance x e → (nearestEntry m x).1 ≤ i) := by
  cases hm : m.entries with
  | nil => exact absurd hm h
  | cons e l =>
    rw [show nearestEntry m x = nearestFrom x 0 e 1 l by simp only [nearestEntry, hm]]
    rcases nearestFrom_spec x l 0 e 1 with ⟨h1, h2⟩ | ⟨j, h1, h2, h3, h4⟩
    · rw [h1]
      refine ⟨rfl, fun i y hy => ?_⟩
      cases i with
      | zero => cases hy; simp
      | succ i => exact ⟨h2 y (List.mem_of_getElem? (by simpa using hy)), fun _ => by simp⟩
    · refine ⟨by rw [h1]; simpa [Nat.add_comm] using h2, fun i y hy => ?_⟩
      cases i with
      | zero => cases hy; exact ⟨by omega, by omega⟩
      | succ i => have := h4 i y (by simpa using hy); exact ⟨this.1, fun q => by have := this.2 q; omega⟩

end Sys2Proof.Machine
end

