-- ==== Sys2Proof/Tests/Slice0.lean ====
section
/-! SUPPORT. Tests: the WellFormed smoke, the spec's worked examples, and for each statement with hypotheses the states and operands
that meet them. -/

namespace Sys2Proof.Tests

open Sys2Proof.Machine

/-! ### WellFormed refuses an ill-formed term at each check -/

theorem test_wf_open : (Instr.openPacket (List.replicate 11 0)).wellFormed = false := by decide
theorem test_wf_line_short : (Instr.linePacket [0]).wellFormed = false := by decide
theorem test_wf_shut : (Instr.shutPacket []).wellFormed = false := by decide
theorem test_wf_dir_short : (Instr.dirPacket [1]).wellFormed = false := by decide
theorem test_wf_dir_long : (Instr.dirPacket (List.replicate 259 0)).wellFormed = false := by decide +kernel
theorem test_wf_header : (Instr.syncLoss [0xC3, 0x5D, 0x12, 0, 2]).wellFormed = false := by decide
theorem test_wf_good : (Instr.dirPacket [1, 0]).wellFormed = true ∧ (Instr.openPacket (List.replicate 12 0)).wellFormed = true ∧
    (Instr.shutPacket [0, 0]).wellFormed = true ∧ (Instr.linePacket [0, 0]).wellFormed = true := by decide

/-! ### The spec's worked examples -/

/-- Section 1.2's header check: a LINE of 1922 bytes has check 0x65, a DIR of 4 bytes 0xDB. -/
theorem test_header_line : headerBytes .lineKind 1922 = [0xC3, 0x5D, 0x11, 0x07, 0x82, 0x65] := by decide
theorem test_header_dir : (headerBytes .dirKind 4).getD 5 0 = 0xDB := by decide

/-- Section 4.4's worked candidate: BRIGHT with strength 282, ring code 0x0E00, chord code 0x7E02; not DARK. -/
def exampleRing : List Int := [60, 62, 58, 55, 70, 65, 61, 59, 64, 130, 128, 101, 99, 97, 88, 66]

theorem test_candidate : strengthOf .bright 100 10 exampleRing = some 282 ∧ strengthOf .dark 100 10 exampleRing = none ∧
    ringCode 100 exampleRing = 0x0E00 ∧ chordCode exampleRing = 0x7E02 := by decide

/-- Section 6.4's rotated descriptor: 0x3800 and 0xF809, at distance 1 of the anchor, 9 unrotated. -/
theorem test_rotation : rotateCode 2 0x0E00 = 0x3800 ∧ rotateCode 2 0x7E02 = 0xF809 ∧
    descriptorDistance 0x3800 0xF809 0x3800 0xF80B = 1 ∧ descriptorDistance 0x0E00 0x7E02 0x3800 0xF80B = 9 := by decide

/-- R107: with a roll of -1, bit i of the rotated code is bit i + 1 of the original. -/
theorem test_rotation_negative : rotateCode (-1) 0x0001 = 0x8000 := by decide

/-- Section 4.6's cell: of j, a, d, g, h, i the cell keeps j, a, d, h and overflows. -/
def survivor (x y strength : Nat) : Candidate := ⟨x, y, .bright, strength, 0, 0⟩

def cellNine : List Candidate :=
  [survivor 170 190 300, survivor 200 200 300, survivor 251 211 180, survivor 300 300 90, survivor 180 340 300,
    survivor 310 350 95]

theorem test_cell : cellNine.foldl (fun held c => offerToCell held.1 held.2 c) ([], false) =
    ([survivor 170 190 300, survivor 200 200 300, survivor 251 211 180, survivor 180 340 300], true) := by decide

/-- Section 5.3's projection, with the three entries the example gives around entry 290, and its tie. -/
def exampleMap (xs291 : Nat) : ColumnMap :=
  ⟨1280, 720, 360, 1200, List.replicate 289 ⟨0, 4040, 4096⟩ ++ [⟨1194, 4039, 4096⟩, ⟨1198, 4040, 4096⟩, ⟨xs291, 4040, 4096⟩]⟩

theorem test_projection : (nearestFrom 300 289 ⟨1194, 4039, 4096⟩ 290 [⟨1198, 4040, 4096⟩, ⟨1203, 4040, 4096⟩]).1 = 290 ∧
    (nearestFrom 300 289 ⟨1194, 4039, 4096⟩ 290 [⟨1198, 4040, 4096⟩, ⟨1202, 4040, 4096⟩]).1 = 290 := by decide
theorem test_projection_y : 4 * 360 + (4 * ((200 : Int) - 360) * 4040) / 4096 = 808 := by decide

/-- Section 5.4's canvas pixel: source column 1100 and row 236, and the same column at origin (4613, 245). -/
def smallMap : ColumnMap := ⟨1280, 720, 360, 1200, []⟩

theorem test_inverse : sourceColumn ⟨4401, 4096, 4200⟩ ⟨4612, 245⟩ 1280 = 1100 ∧ sourceColumn ⟨4401, 4096, 4200⟩ ⟨4613, 245⟩ 1280 = 1100 ∧
    sourceRow smallMap ⟨4401, 4096, 4200⟩ ⟨4612, 245⟩ 300 = 236 := by decide

/-- Section 7.8: column 2180's run begins at row 70 and ends at row 771; column 2300's at 86 and 755. -/
theorem test_run : sourceRow smallMap ⟨4401, 4096, 4200⟩ ⟨4612, 245⟩ 69 = -1 ∧ sourceRow smallMap ⟨4401, 4096, 4200⟩ ⟨4612, 245⟩ 70 = 0 ∧
    sourceRow smallMap ⟨4401, 4096, 4200⟩ ⟨4612, 245⟩ 772 = 720 ∧ sourceRow smallMap ⟨0, 4096, 4400⟩ ⟨4612, 245⟩ 86 = 0 ∧
    sourceRow smallMap ⟨0, 4096, 4400⟩ ⟨4612, 245⟩ 755 = 719 ∧ sourceRow smallMap ⟨0, 4096, 4400⟩ ⟨4612, 245⟩ 756 = 720 := by decide

/-- Section 7.8: gain and blend at column 2180. -/
theorem test_blend : gainApplied 2896 90 = 64 ∧ gainApplied 2896 198 = 140 ∧ blend 104 120 140 = 128 ∧ blend 104 110 100 = 106 ∧
    blend 104 140 150 = 144 ∧ blend 256 17 140 = 140 ∧ gainIndex 1600 1608 = -8 := by decide

/-- Section 7.8: frame 412's band and first written column. -/
theorem test_band : bandWidth 32 2199 1153 = 32 ∧ firstWritten 2199 32 = 2168 ∧ (2168 : Int) / 64 = 33 ∧ (2352 : Int) / 64 = 36 := by decide

/-- Section 6.3's predictions of frame 412, with its hint and without. -/
def hintRecord (x y : Int) (b : Nat) : FrameRecord := ⟨412, intWord x, intWord y, natWord b, 0, 0, 1280, 720, 0, 0, false⟩

theorem test_prediction : predict (hintRecord 51800 (-318) 7) ⟨51200, intWord (-310), 7⟩ ⟨296, -4⟩ = ⟨600, -8⟩ ∧
    predict (hintRecord 51497 (-313) 8) ⟨51200, intWord (-310), 7⟩ ⟨296, -4⟩ = ⟨296, -4⟩ := by decide

/-- Section 6.11's acceptance: the inliers' means are 612 and -11. -/
theorem test_refinement : meanAwayFromZero 4284 7 = 612 ∧ meanAwayFromZero (-79) 7 = -11 ∧ meanAwayFromZero (-5) 2 = -3 ∧
    meanAwayFromZero 5 2 = 3 ∧ acceptance 9 7 6 = .none ∧ classify ⟨.rightward, 128, 4096, 10, 7, 2, 128, 64, 6, 200, 64, 3, 2⟩ 720
      ⟨4612, 245⟩ ⟨612, -11⟩ = none := by decide

/-- Section 6.7's ties: (15, 7) beats (17, 9), at the same votes and distance, by its row; a win at the edge of the grid. -/
def tieVotes : List Nat := (List.range 512).map fun n => if n = 32 * 7 + 15 ∨ n = 32 * 9 + 17 then 3 else if n = 32 * 8 + 14 then 1 else 0

theorem test_tie : binBeats tieVotes (32 * 7 + 15) (32 * 9 + 17) = true ∧ binBeats tieVotes (32 * 9 + 17) (32 * 7 + 15) = false ∧
    inBlock ⟨15, 7⟩ ⟨14, 8⟩ = true ∧ inBlock ⟨15, 7⟩ ⟨16, 5⟩ = false := by decide +kernel

/-- Section 2.3's parameters brought into range: the values recorded, and 8 changed. -/
def armSent : List Nat := [0, 130, 1000, 2, 7, 9, 300, 50, 6, 200, 64, 0, 300]

theorem test_arm : paramList (armedParams .rightward 1200 armSent) = [0, 128, 1216, 4, 7, 7, 252, 48, 6, 200, 64, 1, 255] ∧
    changedCount armSent (armedParams .rightward 1200 armSent) = 8 := by decide

/-- R30: an outcome that would pass coast_limit leaves the counter at it; DAMAGED counts in TRACKING and not in ARMED. -/
theorem test_coast : coastAfter .increment 3 3 = 3 ∧ coastEffect .damaged .tracking = .increment ∧ coastEffect .damaged .armed = .keep ∧
    coastCause .full = .starved := by decide

/-! ### Small states -/

/-- The running part in LOCKED, awaiting a header. -/
def locked : State := { State.reset with inlet := ⟨.locked none, 0⟩ }

/-- An OPEN of 640 x 360, exposure 100, with hint (118, -6) and roll 1 or without a hint. -/
def openBody (hinted : Bool) : List Byte := [0x02, 0x80, 0x01, 0x68, 0, 100, if hinted then 1 else 0, 1, 0, 118, 0xFF, 0xFA]

/-- The answer's state, where there is one. -/
def after (o : Host.Outcome State Fault Refusal) : Option State :=
  match o with
  | .next t => some t
  | .fault _ => none
  | .refused _ => none

/-- Section 3.1's hint chain: the first OPEN after pin reset. -/
theorem test_open_counts : (after (exec (.openPacket (openBody true)) locked)).map (fun t => (t.capture.seq, t.capture.sumX,
    t.capture.sumY, t.capture.broken)) = some (1, 118, intWord (-6), 0) := by decide

/-- R45: an OPEN without a hint leaves the sums and adds 1 to the broken-chain count. -/
theorem test_open_unhinted : (after (exec (.openPacket (openBody false)) locked)).map (fun t => (t.capture.sumX, t.capture.broken)) =
    some (0, 1) := by decide

/-! ### Witnesses: states and operands that meet the statements' hypotheses, clause by clause -/

/-- A directive of this code, tag 7 and parameter bytes, alone in the queue. -/
def offering (code : Byte) (params : List Byte) (s : State) : State := { s with dirs := ⟨[code :: 7 :: params], false⟩ }

theorem offering_offers (code : Byte) (params : List Byte) {s : State} (h : s.power = .running) :
    (offering code params s).offers (code :: 7 :: params) [] := ⟨h, rfl, rfl⟩

/-- A state with `queue` commands waiting. -/
def queued (c : Instr) (s : State) : State := { s with pending := [c] }

theorem witness_StepTakesTheFrontCommand : (queued .status State.reset).pending = .status :: [] ∧ State.reset.pending = [] := by decide

theorem witness_EveryCommandReachesANextState :
    { State.reset with power := .off }.power ≠ .running ∧ lineEvent .compositeTake = false := by decide

theorem witness_ResetLine : after (exec .pinReset State.reset) ≠ none ∧ ∀ high, Instr.pinReset ≠ .resetRelease high := by
  constructor
  · decide
  · intro _ h; cases h

/-! Tables: an identity map of 64 columns, two feather weights, unit gain. -/

def map64 : ColumnMap := ⟨640, 360, 180, 64, (List.range 64).map fun k => ⟨40 * k, 4096, 4096⟩⟩
def feather2 : ValueTable := ⟨2, [128, 256]⟩
def gainUnit : ValueTable := ⟨128, List.replicate 128 4096⟩
def tables64 : Tables := ⟨some map64, some feather2, some gainUnit, none⟩

/-- The image that holds the three tables: their words from word 0, none of them erased. -/
def image64 : Image := (setWords map64 feather2 gainUnit).zipIdx.map fun p => (p.2, p.1)

theorem recalls64 : (match recallImage image64 with
    | .ok x => decide (x = (map64, feather2, gainUnit))
    | .error _ => false) = true := by decide +kernel

theorem recall64 : recallImage image64 = .ok (map64, feather2, gainUnit) := by
  have h := recalls64
  split at h
  · rename_i x hx; rw [hx]; exact congrArg _ (of_decide_eq_true h)
  · cases h

/-- The image of `image64` with its first header word changed recalls no table. -/
def badImage : Image := (0, 639) :: image64.tail

theorem recall_bad : recallImage badImage = .error (.columnMap, -1) := by
  have h : columnMapFault (imageColumnMap badImage) = some (-1) := by decide +kernel
  simp [recallImage, h]

/-- A store whose slot 2 is WRITTEN with `image64` and is the default, slot 1 being erased. -/
def storeWritten : Store :=
  ⟨⟨.delivered, ⟨.blank, 250, []⟩, ⟨.written, 3, image64⟩, ⟨.torn, 4, [(6143, 0)]⟩⟩, false, some 2, some ⟨1, .erase⟩, some .erase, 9⟩

theorem witness_PowerOn : storeWritten.marker = some ⟨1, .erase⟩ ∧ storeWritten.defaultSlot = some 2 ∧
    (storeWritten.slots.get 2).state = .written ∧ recallImage (storeWritten.slots.get 2).image = .ok (map64, feather2, gainUnit) ∧
    Store.delivered.defaultSlot = none := ⟨rfl, rfl, rfl, recall64, rfl⟩

/-! The inlet. -/

theorem witness_HeaderTest : (3842 : Nat) < 65536 ∧ lengthPermitted .lineKind 3842 = true ∧ lengthPermitted .lineKind 3843 = false ∧
    (headerBytes .shutKind 2).length = 6 ∧
    (match testHeader (headerBytes .shutKind 2) with | .ok x => decide (x = (.shutKind, 2)) | .error _ => false) = true := by decide

/-- A false 0xC3 before a whole SHUT header, and the first of its two body bytes: the search locks behind one discarded byte. -/
theorem witness_HuntLocks : State.reset.power = .running ∧ State.reset.inlet.framing = .hunt [] ∧
    [] ++ (0xC3 :: headerBytes .shutKind 2 ++ [1]) = [0xC3] ++ headerBytes .shutKind 2 ++ [1] ∧ [(1 : Byte)].length < 2 ∧
    (match testHeader (headerBytes .shutKind 2) with | .ok x => decide (x = (.shutKind, 2)) | .error _ => false) = true ∧
    (match testHeader (0xC3 :: (headerBytes .shutKind 2).take 5) with | .ok _ => false | .error _ => true) = true ∧
    (match testHeader [1, 2, 3, 4, 5, 6] with | .ok _ => false | .error _ => true) = true := by decide

/-- A body that HUNT would hold whole waits for its packet's own command: the lock takes all but its last byte (R7, log 15). -/
theorem test_hunt_leaves_the_last_byte : (after (exec (.huntLock (headerBytes .shutKind 2 ++ [1, 2])) State.reset)).map (fun t =>
    t.inlet) = some ⟨.locked (some ⟨.shutKind, 2, [1]⟩), 1⟩ := by decide

theorem witness_FailedHeader : locked.power = .running ∧ locked.inlet.framing = .locked none ∧
    (match testHeader [0xC3, 0x5D, 0x12, 0, 3, 0xEA] with | .ok _ => none | .error f => some f) = some .badLength ∧
    (match testHeader (headerBytes .dirKind 258) with | .ok x => decide (x = (.dirKind, 258)) | .error _ => false) = true := by decide

/-! Frames and slots. -/

/-- A frame of 640 x 360 in a slot, with its next expected line and lines missing. -/
def frame (st : SlotState) (nextLine missing : Nat) : CapturedFrame :=
  ⟨st, ⟨1, 0, 0, 0, 100, 0, 640, 360, nextLine, missing, false⟩, [], [], .finished [] []⟩

/-- Legal parameters: RIGHTWARD, M 16, Wmax 1024. -/
def legalParams (wmax aMin tRev : Nat) : SweepParams := ⟨.rightward, 16, wmax, 20, 12, 4, 64, 32, 3, aMin, tRev, 3, 8⟩

/-- The running part in LOCKED with tables, in this sweep state and with these slots. -/
def sweeping (st : SweepState) (slots : FrameSlots) (order : List (Fin 3)) : State :=
  { locked with
    tables := tables64
    sweep := ⟨st, .none, 1, legalParams 1024 16 64, 392, 0, 1, 0⟩
    capture := ⟨1, 0, 0, 0, slots, order⟩ }

theorem witness_OpenCounts : locked.power = .running ∧ canComplete .openKind (openBody true) locked = true ∧
    canComplete .openKind (openBody false) locked = true ∧ (byteAt (openBody true) 6).getLsbD 0 = true ∧
    (byteAt (openBody false) 6).getLsbD 0 = false ∧ after (exec .pinReset locked) ≠ none := by decide

/-- A sweep of slots at coast counter n of coast_limit 3. -/
def coasting (n : Nat) (slots : FrameSlots) (order : List (Fin 3)) : State :=
  let s := sweeping (if n = 0 then .tracking else .coasting) slots order
  { s with sweep := { s.sweep with coast := n } }

/-- Slot 0 FILLING at row 5 of its frame, at coast counter n. -/
def fillingAt (n : Nat) : State := coasting n ⟨some (frame .filling 5 0), none, none⟩ [0]

/-- No slot FILLING, slot 1 the lowest FREE one; a FILLING frame damaged at coast counter 0, whose slot 0 is then the lowest FREE
one; and one damaged at 2, which reaches coast_limit and ends capture. -/
theorem witness_OpenFills : let s := sweeping .armed ⟨some (frame .ready 360 0), none, none⟩ [0]
    (s.power = .running ∧ canComplete .openKind (openBody true) s = true ∧ capturing s.sweep.state = true ∧
      (s.counted (openBody true)).rid (s.counted (openBody true)) ∧ s.tables.columnMap = some map64 ∧
      (halfAt (openBody true) 0).toNat = map64.wFor ∧ (halfAt (openBody true) 2).toNat = map64.hFor ∧
      s.capture.slots.get 1 = none ∧ ∀ j, j < 1 → s.capture.slots.get j ≠ none) ∧
    (∀ n, ((fillingAt n).counted (openBody true)).rid
      (((fillingAt n).counted (openBody true)).damaged 0 (frame .filling 5 0))) ∧
    capturing (((fillingAt 0).counted (openBody true)).damaged 0 (frame .filling 5 0)).sweep.state = true ∧
    (((fillingAt 0).counted (openBody true)).damaged 0 (frame .filling 5 0)).capture.slots.get 0 = none ∧
    capturing (((fillingAt 2).counted (openBody true)).damaged 0 (frame .filling 5 0)).sweep.state = false ∧
    capturing locked.sweep.state = false :=
  ⟨⟨rfl, by decide, rfl, .inl ⟨by decide, rfl⟩, rfl, by decide, by decide, rfl, by decide⟩,
    fun _ => .inr ⟨0, frame .filling 5 0, rfl, rfl, rfl⟩, by decide, by decide, by decide, rfl⟩

/-- R9, R13: on an idle, unheld lane the DAMAGED frame's note is started ahead of the OPEN that damaged it. -/
theorem test_open_starts_the_note : (after (exec (.openPacket (openBody true)) { fillingAt 0 with
    notes := { NoteUnit.zero with unmasked := .const true } })).map (fun t =>
      (t.outlet.sending.map (·.claimant), t.forward.length)) = some (some .note, 1) := by decide +kernel

/-- An OPEN of 640 x 352. -/
def openOther : List Byte := [0x02, 0x80, 0x01, 0x60, 0, 100, 0, 0, 0, 0, 0, 0]

def threeReady (st : SweepState) : State :=
  sweeping st ⟨some (frame .ready 360 0), some (frame .ready 360 0), some (frame .ready 360 0)⟩ [2, 0, 1]

theorem threeReady_agrees (st : SweepState) : (threeReady st).captureAgrees := by
  cases st <;> (unfold State.captureAgrees; decide)

/-- Slot 0 FILLING, slots 1 and 2 READY: an OPEN of another size damages the one and discards the others. -/
def fillingAndReady : State :=
  coasting 0 ⟨some (frame .filling 5 0), some (frame .ready 360 0), some (frame .ready 360 0)⟩ [2, 0, 1]

theorem witness_OpenDamagesFirst : fillingAndReady.captureAgrees ∧
    (fillingAndReady.counted openOther).rid ((fillingAndReady.counted openOther).damaged 0 (frame .filling 5 0)) ∧
    capturing ((fillingAndReady.counted openOther).damaged 0 (frame .filling 5 0)).sweep.state = true :=
  ⟨by unfold State.captureAgrees; decide, .inr ⟨0, frame .filling 5 0, rfl, rfl, rfl⟩, by decide⟩

/-- R58: DAMAGED, GEOMETRY and two DISCARDED frames are four not composited; the sweep drains at once. -/
theorem test_geometry_counts : (after (exec (.openPacket openOther) fillingAndReady)).map (fun t =>
    (t.counters.framesNotComposited, t.sweep.state, t.sweep.cause)) = some (4, .ended, .geometry) := by decide +kernel

theorem witness_OpenThatCannot : ((threeReady .tracking).counted (openBody true)).rid ((threeReady .tracking).counted (openBody true)) ∧
    capturing (threeReady .tracking).sweep.state = true ∧ fillingSlot (threeReady .tracking) = none ∧
    canComplete .openKind (openBody true) (threeReady .tracking) = true ∧ canComplete .openKind openOther (threeReady .armed) = true ∧
    (∀ i, (threeReady .tracking).capture.slots.get i ≠ none) ∧
    ((halfAt (openBody true) 0).toNat = (workingMap tables64).wFor ∧ (halfAt (openBody true) 2).toNat = (workingMap tables64).hFor) ∧
    ¬((halfAt openOther 0).toNat = (workingMap tables64).wFor ∧ (halfAt openOther 2).toNat = (workingMap tables64).hFor) :=
  ⟨.inl ⟨by decide, rfl⟩, by decide⟩

/-- Slot 0 FILLING at this line with lines missing. -/
def filling (nextLine missing : Nat) : State :=
  sweeping .tracking ⟨some (frame .filling nextLine missing), none, none⟩ [0]

theorem witness_ExpectedLine : canComplete .lineKind [0x01, 0x67] (filling 359 8) = true ∧ fillingSlot (filling 359 8) = some 0 ∧
    (filling 359 8).capture.slots.get 0 = some (frame .filling 359 8) ∧ lineNumber [0x01, 0x67] = 359 := by decide

/-- Line 359 expected at 351 with none missing: a gap of 8 is made up; with one missing, 9 damage the frame. -/
theorem witness_Gap : canComplete .lineKind [0x01, 0x67] (filling 351 0) = true ∧ fillingSlot (filling 351 1) = some 0 ∧
    (filling 351 1).capture.slots.get 0 = some (frame .filling 351 1) ∧ 351 < lineNumber [0x01, 0x67] ∧
    lineNumber [0x01, 0x67] < 360 ∧ 0 + (lineNumber [0x01, 0x67] - 351) ≤ 8 ∧ 8 < 1 + (lineNumber [0x01, 0x67] - 351) := by decide

/-- Line 358 where 359 is expected, and line 360 of 360. -/
theorem witness_IgnoredLines : canComplete .lineKind [0x01, 0x66] (filling 359 0) = true ∧ fillingSlot (filling 359 0) = some 0 ∧
    lineNumber [0x01, 0x66] < (frame .filling 359 0).record.nextLine ∧ canComplete .lineKind [0x01, 0x68] (filling 359 0) = true ∧
    (frame .filling 359 0).record.h ≤ lineNumber [0x01, 0x68] := by decide

theorem witness_Uncaptured : fillingSlot locked = none ∧ canComplete .lineKind [0, 0] locked = true ∧
    canComplete .shutKind [0, 0] locked = true ∧ [Packet.mk .shutKind [0, 0]].length < 4 ∧
    4 ≤ (List.replicate 4 (Packet.mk .shutKind [0, 0])).length := by decide

theorem witness_Shut : canComplete .shutKind [0, 0] (filling 352 0) = true ∧ fillingSlot (filling 352 0) = some 0 ∧
    (filling 352 0).capture.slots.get 0 = some (frame .filling 352 0) ∧ 0 + (360 - 352) ≤ 8 ∧ 8 < 1 + (360 - 352) := by decide

theorem witness_Directive : canComplete .dirKind [1, 0] locked = true ∧ (List.replicate 7 [1, (0 : Byte)]).length < 8 ∧
    8 ≤ (List.replicate 8 [1, (0 : Byte)]).length := by decide

/-- The receiver with the first byte of a DIR of four in. -/
def halfDir : State := { locked with inlet := ⟨.locked (some ⟨.dirKind, 4, [1]⟩), 0⟩ }

/-- A whole body completes with no packet current, at the least and the greatest length of its kind, and the current packet's with its
own first byte, kind and length only (R5, R7). -/
theorem witness_WholeBody : locked.inlet.framing = .locked none ∧ halfDir.inlet.framing = .locked (some ⟨.dirKind, 4, [1]⟩) ∧
    canComplete .dirKind [1, 7, 0, 2] halfDir = true ∧ canComplete .dirKind [2, 7, 0, 2] halfDir = false ∧
    canComplete .dirKind [1, 7] halfDir = false ∧ canComplete .shutKind [1, 7] halfDir = false ∧
    canComplete .dirKind [1] locked = false ∧ canComplete .dirKind (List.replicate 258 0) locked = true ∧
    canComplete .dirKind (List.replicate 259 0) locked = false ∧ canComplete .lineKind [0, 0] locked = true ∧
    canComplete .lineKind [0] locked = false ∧ canComplete .shutKind [0, 0] locked = true := by decide +kernel

/-- R1, R7: of a DIR of four whose first byte was in, three bytes arrive; with its header, ten. -/
theorem test_whole_body : (receivePacket [1, 7, 0, 2] halfDir).inlet = ⟨.locked none, 1⟩ ∧
    (receivePacket [1, 7, 0, 2] locked).inlet = ⟨.locked none, 0⟩ := by decide

/-! The outlet and the emitter. -/

def note : Note := .event .linkSync 0 []

/-- A run of tile 0 at this packet. -/
def run (next : RunPacket) (status : RunStatus) : Run := ⟨1, 0, 64, 0, 391, status, 0, next⟩

theorem witness_Hold : State.reset.outlet.sending = none ∧ { State.reset with forward := [notePacket note] }.forward = notePacket note :: [] ∧
    { State.reset with ring := { Ring.zero with run := some (run .tileEnd .complete) } }.ring.run = some (run .tileEnd .complete) ∧
    State.reset.ring.run = none := by decide

/-- A tile of three columns and two pair columns of one row. -/
def rowTile : Tile := ⟨0, .emitting, 0, [], [[1], [2], [3], [4]], [[(10, 11)], [(12, 13)]]⟩

/-- Row 0 of three sent columns, in a LEFTWARD sweep: the columns from the last sent down, both pairs, the higher first (R160). -/
theorem test_leftward_row : runPacket { State.reset with
      sweep := { Sweep.zero with params := { Sweep.zero.params with direction := .leftward } }
      ring := { Ring.zero with tiles := [rowTile] } } { run (.row 0) .complete with columns := 3 } =
    ⟨.tileRow, [0, 0, 3, 2, 1, 12, 13, 10, 11]⟩ := by decide

theorem witness_Row : (run (.row 391) .complete).next = .row 391 ∧ ([rowTile].find? fun t => decide (t.index = 0)) = some rowTile ∧
    3 ≤ rowTile.luma.length ∧ (3 + 1) / 2 ≤ rowTile.chroma.length := by decide

/-- The outlet sends this claimant's packet; the note queue holds 16 notes. -/
def sending (c : Claimant) (orphan : Bool) : State :=
  { State.reset with
    outlet := ⟨some ⟨c, notePacket note, orphan⟩, 0⟩
    notes := { NoteUnit.zero with queue := List.replicate 16 note, unmasked := .const true }
    ring := { Ring.zero with run := some (run (.row 391) .complete) } }

theorem witness_Completed : (sending .note false).power = .running ∧ (sending .note false).notes.queue.length = 16 ∧
    (sending .note false).notes.replies = [] ∧ (∀ k ∈ eventKinds, (sending .note false).notes.pending.get k = none) ∧
    (sending .tile false).ring.run = some (run (.row 391) .complete) ∧
    (raise .frameOutcome [5] (sending .note false)).notes.pending.get .frameOutcome = some ⟨[5], 0⟩ ∧
    eventKinds = [.sweepState] ++ .frameOutcome :: [.creditStarved, .linkSync, .directiveOverrun, .passthroughDrop] ∧
    (replyTo [1, 0] .done [] (sending .note false)).notes.replies = [⟨.directiveUnit, .reply 0 1 .done []⟩] := by decide

/-- Draining: the TILEEND of the last resident tile is on the outlet. -/
def lastTileEnd (tiles : List Tile) : State :=
  { sending .tile false with
    sweep := ⟨.draining, .finished, 1, legalParams 1024 16 64, 392, 0, 1, 0⟩
    ring := { Ring.zero with tiles := tiles, run := some (run .tileEnd .complete) } }

theorem witness_TileEnd : (lastTileEnd []).ring.run = some (run .tileEnd .complete) ∧ (lastTileEnd []).sweep.state = .draining ∧
    (∀ i, slotState (lastTileEnd []) i ≠ some .registering) ∧ (lastTileEnd []).comp.queue = [] ∧ (lastTileEnd []).comp.writing = false ∧
    (lastTileEnd [⟨1, .sealed, 0, [], [], []⟩]).ring.tiles ≠ [] := by decide

/-- A bare tile: no pixels listed. -/
def bareTile (i : Nat) (st : TileState) (writers : Nat) : Tile := ⟨i, st, writers, [some ⟨16, 375⟩, none], [], []⟩

/-- Sealed tiles waiting, with these credits. -/
def waitingTiles (credits : Nat) : State :=
  { State.reset with ring := ⟨[bareTile 0 .sealed 0, bareTile 1 .sealed 0], [0, 1], none, credits, false, none⟩ }

theorem witness_RunTake : (waitingTiles 1).ring.run = none ∧ 0 < (waitingTiles 1).ring.credits ∧
    (waitingTiles 1).ring.sealedQueue = 0 :: [1] ∧ (waitingTiles 2).ring.credits ≠ 1 ∧
    ((waitingTiles 1).ring.tiles.find? fun u => decide (u.index = 0)) = some (bareTile 0 .sealed 0) := by decide

theorem witness_Ends : some ⟨16, 375⟩ ∈ (bareTile 0 .sealed 0).coverage ∧ ∀ c ∈ (freshTile 392 0).coverage, c = none := by
  decide +kernel

/-- Tiles sealed and waiting in TRACKING, a SWEEP_ABORT on offer, and these events to come. -/
def takeAndAbort (credits : Nat) (events : List Instr) : State :=
  { offering 0x12 [] { waitingTiles credits with sweep := (sweeping .tracking .allFree []).sweep } with pending := events }

/-- The abort waits directly behind the take at hand; with no event behind the take it does not. -/
theorem witness_AbortBehind : (takeAndAbort 1 [.sweepAbort]).abortBehind ∧ ¬(takeAndAbort 1 []).abortBehind :=
  ⟨⟨rfl, ⟨_, _, offering_offers 0x12 [] rfl, rfl, rfl⟩, by decide, by decide⟩, fun h => by cases h.1⟩

theorem witness_Pair (events : List Instr) : (takeAndAbort 1 events).offers [0x12, 7] [] ∧ dirCode [0x12, 7] = 0x12 ∧
    dirParams [0x12, 7] = some [] ∧ (takeAndAbort 1 events).sweep.state ≠ .idle ∧ (takeAndAbort 1 events).sweep.state ≠ .ended ∧
    (takeAndAbort 1 events).ring.run = none ∧ (takeAndAbort 1 events).ring.sealedQueue ≠ [] ∧
    tileOnOutlet (takeAndAbort 1 events) = false ∧ (takeAndAbort 1 events).pending = events :=
  ⟨offering_offers 0x12 [] rfl, rfl, rfl, SweepState.noConfusion, SweepState.noConfusion, rfl, List.cons_ne_nil _ _, rfl, rfl⟩

/-- R157: taken behind the take, the abort cancels the run and its credit is back; a take alone starts its TILEHEAD (R13). -/
theorem test_abort_cancels : (after (step (takeAndAbort 2 [.tileRunTake, .sweepAbort]))).bind (fun t => (after (step t)).map fun u =>
      (u.ring.run, u.ring.credits, tileOnOutlet u)) = some (none, 2, false) ∧
    (after (step (takeAndAbort 2 [.tileRunTake]))).map (fun t => (t.ring.credits, tileOnOutlet t)) = some (1, true) := by
  decide +kernel

/-! Notes and directives. -/

theorem settled_empty (s : State) (h : s.notes = .zero) : s.notes.settled := by
  rw [h]; exact ⟨by decide, .inr ⟨rfl, fun _ _ => by simp [NoteUnit.zero]⟩⟩

theorem settled_full : (sending .note false).notes.settled := ⟨by decide, .inl (by decide)⟩

/-- A note is on the outlet and the queue holds it and one more. -/
def sendingOne : State := { sending .note false with notes := { NoteUnit.zero with queue := [note, note], unmasked := .const true } }

theorem witness_SendingOne : sendingOne.outlet.sending = some ⟨.note, notePacket note, false⟩ ∧ sendingOne.notes.settled ∧
    sendingOne.notes.queue.length < 16 :=
  ⟨rfl, ⟨by decide, .inr ⟨rfl, fun k _ => by cases k <;> rfl⟩⟩, by decide⟩

/-- R11, R171: the sent note leaves the queue, and nothing fills the slot. -/
theorem test_note_sent : (after (exec .outletPacketComplete sendingOne)).map (fun t => t.notes.queue) = some [note] := by decide

theorem witness_Places : State.reset.notes.settled ∧ State.reset.notes.queue.length < 16 ∧ (sending .note false).notes.settled ∧
    (sending .note false).notes.queue.length = 16 ∧ (raise .linkSync [] State.reset).notes.pending.get .linkSync = some ⟨[], 0⟩ ∧
    (sending .note false).notes.unmasked.get .linkSync = true ∧ State.reset.notes.unmasked.get .linkSync = false :=
  ⟨settled_empty _ rfl, by decide, settled_full, by decide, by decide, by decide, by decide⟩

theorem witness_Status : (offering 1 [] State.reset).offers [1, 7] [] ∧ dirCode [1, 7] = 0x01 ∧ dirParams [1, 7] = some [] ∧
    (offering 1 [] { State.reset with sweep := { Sweep.zero with state := .ended } }).sweep.state = .ended :=
  ⟨offering_offers _ _ rfl, rfl, rfl, rfl⟩

theorem witness_EventMask : (offering 2 [0, 63] State.reset).offers [2, 7, 0, 63] [] ∧ dirParams [2, 7, 0, 63] = some [63] ∧
    dirParams [2, 7, 0, 64] = some [64] ∧ State.reset.notes.queue.length < 16 ∧ State.reset.notes.replies = [] :=
  ⟨offering_offers _ _ rfl, rfl, rfl, by decide, rfl⟩

theorem witness_Counters : (offering 3 [0, 2] State.reset).offers [3, 7, 0, 2] [] ∧ dirParams [3, 7, 0, 0] = some [0] ∧
    dirParams [3, 7, 0, 1] = some [1] ∧ dirParams [3, 7, 0, 2] = some [2] := ⟨offering_offers _ _ rfl, rfl, rfl, rfl⟩

theorem witness_Refused : (offering 0x14 [] State.reset).offers [0x14, 7] [] ∧ knownDirective 0x14 = false ∧
    (Instr.grant, (0x18 : Byte), 1) ∈ fixedDirectives ∧ dirParams [0x18, 7, 0] = none ∧ dirParams [0x18, 7, 0, 1, 0, 2] = some [1, 2] ∧
    dirParams [0x20, 7, 0, 1, 0, 1] = some [1, 1] ∧ { State.reset with dirs := ⟨[[1, 0]], true⟩ }.dirs.replyWaiting = true ∧
    State.reset.dirs.queue = [] := ⟨offering_offers _ _ rfl, by decide, by decide, rfl, rfl, rfl, rfl, rfl⟩

theorem witness_ResetEngine : (offering 4 [] { State.reset with store := storeWritten }).offers [4, 7] [] ∧ dirParams [4, 7] = some [] ∧
    storeWritten.marker = some ⟨1, .erase⟩ := ⟨offering_offers _ _ rfl, rfl, rfl⟩

/-- An outlet that is idle, held or sending a note; a profile reply that waits behind the directive unit's. -/
theorem witness_ResetOutlet : State.reset.outlet.sending = none ∧ State.reset.holdLine = false ∧ State.reset.forward = [] ∧
    { State.reset with holdLine := true }.holdLine = true ∧
    (offering 4 [] (sending .note false)).outlet.sending = some ⟨.note, notePacket note, false⟩ ∧
    { NoteUnit.zero with replies := [⟨.directiveUnit, .reply 1 2 .done []⟩, ⟨.profileStore, .reply 9 0x31 .done []⟩] }.replies =
      [⟨.directiveUnit, .reply 1 2 .done []⟩] ++ ⟨.profileStore, .reply 9 0x31 .done []⟩ :: [] ∧
    ∀ r ∈ [WaitingReply.mk .directiveUnit (.reply 1 2 .done [])], r.source ≠ .profileStore := by decide

/-- R15: the note on the outlet stays there and has lost its slot. -/
theorem test_reset_orphans : (after (exec .resetEngine (offering 4 [] (sending .note false)))).map (fun t =>
    (t.outlet.sending, t.notes.queue.length)) = some (some ⟨.note, notePacket note, true⟩, 1) := by decide +kernel

/-- The thirteen parameters of section 2.3, as bytes. -/
def armBytes (direction : Byte) : List Byte :=
  [0, direction, 0, 130, 3, 232, 0, 2, 0, 7, 0, 9, 1, 44, 0, 50, 0, 6, 0, 200, 0, 64, 0, 0, 1, 44]

theorem witness_SweepArm : (offering 0x10 (armBytes 0) (sweeping .idle .allFree [])).offers (0x10 :: 7 :: armBytes 0) [] ∧
    dirParams (0x10 :: 7 :: armBytes 0) = some armSent ∧ armSent.length = 13 ∧ (sweeping .idle .allFree []).sweep.state = .idle ∧
    tables64.columnMap = some map64 ∧ tables64.feather ≠ none ∧ tables64.gain ≠ none ∧ State.reset.tables.feather = none ∧
    (dirParams (0x10 :: 7 :: armBytes 2)).map (fun ps => ps.getD 0 0) = some 2 ∧ (sweeping .armed .allFree []).sweep.state ≠ .idle :=
  ⟨offering_offers _ _ rfl, by decide, by decide, rfl, rfl, by decide, by decide, rfl, by decide, by decide⟩

theorem witness_SweepEnd : (offering 0x11 [] (threeReady .coasting)).offers [0x11, 7] [] ∧ dirParams [0x11, 7] = some [] ∧
    (offering 0x11 [] (threeReady .coasting)).captureAgrees ∧ capturing (threeReady .armed).sweep.state = true ∧
    (offering 0x13 [] (sweeping .ended .allFree [])).offers [0x13, 7] [] ∧ (sweeping .ended .allFree []).sweep.state = .ended :=
  ⟨offering_offers _ _ rfl, rfl, threeReady_agrees .coasting, rfl, offering_offers _ _ rfl, rfl⟩

theorem witness_Discard : (threeReady .tracking).captureAgrees ∧ (threeReady .tracking).counters.sound ∧
    (lastTileEnd []).sweep.state = .draining ∧ (threeReady .tracking).sweep.state ≠ .draining :=
  ⟨threeReady_agrees .tracking, by unfold Counters.sound; decide, rfl, by decide⟩

theorem witness_SweepAbort : (offering 0x12 [] (threeReady .draining)).offers [0x12, 7] [] ∧ dirParams [0x12, 7] = some [] ∧
    (offering 0x12 [] (threeReady .draining)).captureAgrees ∧ (threeReady .draining).counters.sound ∧
    (threeReady .draining).sweep.state ≠ .idle ∧ (threeReady .draining).ring.run = none ∧ tileOnOutlet (sending .tile false) = true ∧
    tileOnOutlet State.reset = false ∧ (lastTileEnd []).ring.run = some (run .tileEnd .complete) :=
  ⟨offering_offers _ _ rfl, rfl, threeReady_agrees .draining, by unfold Counters.sound; decide, by decide, rfl, rfl, rfl, rfl⟩

theorem witness_Grant : (offering 0x18 [0, 255] State.reset).offers [0x18, 7, 0, 255] [] ∧ dirParams [0x18, 7, 0, 255] = some [255] ∧
    ∀ n, dirParams [0x18, 7, 0] ≠ some [n] := ⟨offering_offers _ _ rfl, rfl, fun _ h => by cases h⟩

/-! Tables and profiles. -/

/-- A FIRST, last FEATHER page of one weight, and a later one: bodies of TABLE_PAGE. -/
def firstPageBody : List Byte := [0x20, 7, 0, 2, 0, 1, 0, 1, 0, 1, 1, 0]
def morePageBody : List Byte := [0x20, 7, 0, 2, 0, 6, 0, 1, 1, 0]

theorem witness_TablePage : (offering 0x20 (firstPageBody.drop 2) State.reset).offers firstPageBody [] ∧
    dirParams firstPageBody = some [2, 1, 1, 1, 256] ∧ tableIdOf 2 = some .feather ∧ (readPage .feather [2, 1, 1, 1, 256]).first = true ∧
    [2, 1, 1, 1, 256].length = pageLength .feather true 1 ∧ headerCount (readPage .feather [2, 1, 1, 1, 256]).header ≤ 64 ∧
    64 < headerCount (readPage .feather [2, 1, 1, 65, 256]).header ∧ dirParams morePageBody = some [2, 6, 1, 256] ∧
    (readPage .feather [2, 6, 1, 256]).more = true ∧ (readPage .feather [2, 6, 1, 256]).toggle = true ∧
    (readPage .feather [2, 6, 1, 256]).first = false ∧ [2, 6, 1, 256].length = pageLength .feather false 1 ∧ tableIdOf 4 = none ∧
    pageLimit .feather < 65 := ⟨offering_offers _ _ rfl, by decide, rfl, by decide, by decide, by decide, by decide, by decide, by decide,
      by decide, by decide, by decide, rfl, by decide⟩

/-- The SERVICE part with this store. -/
def service (st : Store) : State := { State.reset with mode := .service, store := st, tables := tables64 }

/-- `storeWritten` with nothing in progress. -/
def storeIdle : Store := { storeWritten with marker := none, busy := none }

theorem witness_Erase : (offering 0x31 [0, 1] (service storeIdle)).offers [0x31, 7, 0, 1] [] ∧ dirParams [0x31, 7, 0, 1] = some [1] ∧
    (service storeIdle).mode = .service ∧ storeIdle.busy = none ∧ storeIdle.isProtected = false ∧ 250 ≤ (storeIdle.slots.get 1).wear ∧
    (storeIdle.slots.get 3).wear < 250 ∧ (service storeWritten).store.marker = some ⟨1, .erase⟩ :=
  ⟨offering_offers _ _ rfl, rfl, rfl, rfl, rfl, by decide, by decide, rfl⟩

theorem map64_valid : columnMapFault map64 = none := by decide +kernel

theorem tables64_sound : tables64.sound := by
  refine ⟨fun m h => ?_, fun v h => ?_, fun v h => ?_, fun a h => by cases h⟩
  · cases h; exact ⟨map64_valid, by decide⟩
  · cases h; exact ⟨by decide, by decide⟩
  · cases h; exact ⟨by decide +kernel, by decide +kernel⟩

theorem witness_Write : (offering 0x32 [0, 0] (service storeIdle)).offers [0x32, 7, 0, 0] [] ∧ dirParams [0x32, 7, 0, 0] = some [0] ∧
    (storeIdle.slots.get 0).state = .blank ∧ (storeIdle.slots.get 2).state ≠ .blank ∧ tableValidity tables64 = 7 ∧
    tableValidity State.reset.tables ≠ 7 ∧ { storeIdle with marker := some ⟨0, .write⟩ }.marker = some ⟨0, .write⟩ ∧ tables64.sound :=
  ⟨offering_offers _ _ rfl, rfl, rfl, by decide, by decide, by decide, rfl, tables64_sound⟩

theorem witness_VerifyBlank : (offering 0x33 [0, 2] (service storeIdle)).offers [0x33, 7, 0, 2] [] ∧ (storeIdle.slots.get 2).state = .written ∧
    (storeIdle.slots.get 3).state = .torn ∧ (storeIdle.slots.get 3).image.wf ∧ imageDifference [] tables64 = some (.columnMap, -1) ∧
    { storeIdle with marker := some ⟨3, .blankCheck⟩ }.marker = some ⟨3, .blankCheck⟩ :=
  ⟨offering_offers _ _ rfl, rfl, rfl, by decide, by decide +kernel, rfl⟩

theorem verify64 : imageDifference image64 tables64 = none := by decide +kernel

/-- The first difference of an image at a header, and at an entry behind equal ones. -/
theorem witness_Differences : imageRead image64 0 = natHalf map64.wFor ∧ imageRead badImage 0 ≠ natHalf map64.wFor ∧
    imageDifference badImage tables64 = some (.columnMap, -1) ∧
    imageDifference image64 { tables64 with feather := some ⟨2, [128, 255]⟩ } = some (.feather, 1) := by decide +kernel

/-- R180 at its boundaries: headers, an xs no greater than the one before, weights, factors. -/
theorem witness_Validation : columnMapFault { map64 with yc := 359 } = none ∧ columnMapFault { map64 with yc := 360 } = some (-1) ∧
    columnMapFault { map64 with entries := [⟨0, 2048, 4096⟩, ⟨2556, 4096, 8192⟩, ⟨2556, 4096, 4096⟩] } = some 2 ∧
    columnMapFault { map64 with entries := [⟨2557, 4096, 4096⟩] } = some 0 ∧ featherFault ⟨64, [255, 256]⟩ = none ∧
    featherFault ⟨2, [256, 255]⟩ = some 1 ∧ featherFault ⟨65, []⟩ = some (-1) ∧ gainFault ⟨128, [65535, 65536]⟩ = some 1 ∧
    gainFault ⟨127, []⟩ = some (-1) := by decide +kernel

theorem witness_EraseAll : (offering 0x36 [] (service storeIdle)).offers [0x36, 7] [] ∧ dirParams [0x36, 7] = some [] ∧
    ((2 : Fin 4).val = (1 : Fin 4).val + 1) ∧ { storeIdle with marker := some ⟨3, .eraseAll⟩ }.marker = some ⟨3, .eraseAll⟩ :=
  ⟨offering_offers _ _ rfl, rfl, rfl, rfl⟩

theorem witness_Protect : (offering 0x37 [0, 4] (service storeIdle)).offers [0x37, 7, 0, 4] [] ∧ dirParams [0x37, 7, 0, 4] = some [4] ∧
    dirParams [0x37, 7, 0, 3] = some [(3 : Fin 4).val] ∧ dirParams [0x35, 7] = some [] ∧ storeIdle.busy = none :=
  ⟨offering_offers _ _ rfl, rfl, rfl, rfl, rfl⟩

theorem witness_Recall : (offering 0x30 [0, 2] (service storeIdle)).offers [0x30, 7, 0, 2] [] ∧ (service storeIdle).sweep.state = .idle ∧
    (storeIdle.slots.get 2).state = .written ∧ recallImage (storeIdle.slots.get 2).image = .ok (map64, feather2, gainUnit) ∧
    (storeIdle.slots.get 0).state ≠ .written ∧ recallImage badImage = .error (.columnMap, -1) ∧ (threeReady .armed).sweep.state ≠ .idle :=
  ⟨offering_offers _ _ rfl, rfl, rfl, recall64, by decide, recall_bad, by decide⟩

theorem witness_Checks : (offering 0x37 [0, 5] (service storeIdle)).offers [0x37, 7, 0, 5] [] ∧ dirParams [0x37, 7, 0, 5] = some [5] ∧
    (Instr.profileDefault, (0x37 : Byte), 1, true, true, 5) ∈ profileDirectives ∧ State.reset.mode = .normal ∧ storeWritten.busy ≠ none ∧
    { storeIdle with isProtected := true }.isProtected = true := ⟨offering_offers _ _ rfl, rfl, by decide, rfl, by decide, rfl⟩

/-- Bodies whose parameter count is wrong, an odd number of parameter bytes among them: each meets the FORMAT clauses. -/
theorem witness_Format : (offering 0x10 [0] locked).offers [0x10, 7, 0] [] ∧ dirParams [0x10, 7, 0] = none ∧
    dirParams [0x11, 7, 0, 1] ≠ some [] ∧ ∀ n, dirParams [0x18, 7] ≠ some [n] :=
  ⟨offering_offers _ _ rfl, by decide, by decide, fun n h => by cases h⟩

/-! Registration and placement. -/

/-- ARMED with slot 0 READY; with Wmax 64 the seed of 64 columns reaches the width limit at once. -/
def armedReady (wmax : Nat) : State :=
  let s := sweeping .armed ⟨some (frame .ready 360 0), none, none⟩ [0]
  { s with sweep := { s.sweep with params := legalParams wmax 16 64 } }

theorem armedReady_coherent : (armedReady 64).coherent ∧ (armedReady 1024).coherent := by
  refine ⟨⟨?_, ?_, ?_⟩, ⟨?_, ?_, ?_⟩⟩
  · unfold State.captureAgrees; decide
  · unfold State.workAgrees; decide
  · unfold State.phaseAgrees; decide
  · unfold State.captureAgrees; decide
  · unfold State.workAgrees; decide
  · unfold State.phaseAgrees; decide

theorem witness_Seed : (armedReady 64).coherent ∧ (armedReady 1024).coherent ∧ oldestIn .ready (armedReady 64) = some 0 ∧
    (armedReady 64).capture.slots.get 0 = some (frame .ready 360 0) ∧ (armedReady 64).tables.columnMap = some map64 ∧
    1 ≤ map64.k ∧ 1 ≤ (64 : Nat) ∧ min ((map64.k : Int) - 1) ((64 : Nat) - 1) = (64 : Nat) - 1 ∧
    min ((map64.k : Int) - 1) ((1024 : Nat) - 1) ≠ (1024 : Nat) - 1 :=
  ⟨armedReady_coherent.1, armedReady_coherent.2, rfl, rfl, rfl, by decide, by decide, by decide, by decide⟩

theorem witness_Taken : (threeReady .tracking).reg.engine = .waiting ∧ oldestIn .ready (threeReady .tracking) = some 2 ∧
    (threeReady .tracking).capture.slots.get 2 = some (frame .ready 360 0) ∧
    (frame .ready 360 0).record.broken = (threeReady .tracking).reg.header.broken := by decide

/-- Three keypoints of one column, 10 rows apart, and anchors that lie at this displacement from them. -/
def threeKeypoints : List Keypoint := [10, 20, 30].map fun y => ⟨y / 10 - 1, 0, 0, y, .bright, 50, 0, 0, none⟩

def displacedAnchors (origin : Point) (dx : Int) : List Anchor :=
  [10, 20, 30].map fun (y : Nat) => ⟨origin.x + dx, origin.y + 4 * y, .bright, 0, 0, y / 10 - 1, none⟩

/-- MATCHING slot 1, whose three keypoints lie at this displacement from the anchors of a frame at `origin`. -/
def matching (origin : Point) (dx : Int) (aMin tRev : Nat) : State :=
  let s := sweeping .tracking
    ⟨none, some { frame .registering 360 0 with detection := .finished threeKeypoints [] }, none⟩ [1]
  { s with
    sweep := { s.sweep with params := legalParams 1024 aMin tRev }
    placement := ⟨63, 100, origin, 0, ⟨0, 0⟩⟩
    reg := { Registration.zero with engine := .matching, work := some 1, anchors := displacedAnchors origin dx } }

theorem witness_Registration : (matching ⟨0, 64⟩ 16 16 64).reg.engine = .matching ∧ (matching ⟨0, 64⟩ 16 16 64).reg.work = some 1 ∧
    (matching ⟨0, 64⟩ 16 16 64).capture.slots.get 1 =
      some { frame .registering 360 0 with detection := .finished threeKeypoints [] } := ⟨rfl, rfl, rfl⟩

/-- The frame of `matching`. -/
def matchFrame : CapturedFrame := { frame .registering 360 0 with detection := .finished threeKeypoints [] }

/-- Three claims of one displacement, whose bin is entry w of the grid, are accepted with that displacement. -/
theorem register_three {i : MatchInputs} {anchors : List Anchor} {kps : List Keypoint} {d : Point} {w : Nat}
    (hd : claimDisplacements i (settleClaims i anchors kps) = [d, d, d]) (hw : w < 512) (hb : binOf i.pred d = gridBin w)
    (hm : i.params.minSupport ≤ 3) : (register i anchors kps).reason = .none ∧
      (register i anchors kps).delta = ⟨meanAwayFromZero (d.x + (d.x + (d.x + 0))) 3, meanAwayFromZero (d.y + (d.y + (d.y + 0))) 3⟩ := by
  have win : winningBin (voteGrid [gridBin w, gridBin w, gridBin w]) = w := by
    refine winningBin_of_most hw fun n hn hne => ?_
    have hg : gridBin w ≠ gridBin n := by
      simp only [gridBin, ne_eq, Point.mk.injEq]; omega
    rw [voteGrid_getD _ hn, voteGrid_getD _ hw]
    simp [hg]
  simp [register, hd, hb, inliers, win, inBlock, acceptance, Nat.not_lt.2 hm]

/-- A displacement of 16 (A_min 16: handed over; A_min 17: SLOW); -1 (T_rev 0: REVERSED; T_rev 1: not); no anchor: TOO_FEW; and a
frame 785 quarter pixels off the seed's row: DRIFTED. -/
theorem witness_Displacements (aMin tRev : Nat) :
    (registrationOf matchFrame (matching ⟨0, 64⟩ 16 aMin tRev)).reason = .none ∧
    (registrationOf matchFrame (matching ⟨0, 64⟩ 16 aMin tRev)).delta = ⟨16, 0⟩ ∧
    (registrationOf matchFrame (matching ⟨0, 64⟩ (-1) aMin tRev)).reason = .none ∧
    (registrationOf matchFrame (matching ⟨0, 64⟩ (-1) aMin tRev)).delta = ⟨-1, 0⟩ ∧
    (registrationOf matchFrame (matching ⟨0, 849⟩ 16 aMin tRev)).reason = .none ∧
    (registrationOf matchFrame (matching ⟨0, 849⟩ 16 aMin tRev)).delta = ⟨16, 0⟩ ∧
    (4 * (16 + 360 / 2) : Nat) < ((849 : Int) - 4 * 16).natAbs := by
  have h1 := register_three (i := matchInputs matchFrame (matching ⟨0, 64⟩ 16 0 0)) (anchors := displacedAnchors ⟨0, 64⟩ 16)
    (kps := threeKeypoints) (d := ⟨16, 0⟩) (w := 273) (by decide +kernel) (by decide) (by decide) (by decide)
  have h2 := register_three (i := matchInputs matchFrame (matching ⟨0, 64⟩ (-1) 0 0)) (anchors := displacedAnchors ⟨0, 64⟩ (-1))
    (kps := threeKeypoints) (d := ⟨-1, 0⟩) (w := 271) (by decide +kernel) (by decide) (by decide) (by decide)
  have h3 := register_three (i := matchInputs matchFrame (matching ⟨0, 849⟩ 16 0 0)) (anchors := displacedAnchors ⟨0, 849⟩ 16)
    (kps := threeKeypoints) (d := ⟨16, 0⟩) (w := 273) (by decide +kernel) (by decide) (by decide) (by decide)
  exact ⟨h1.1, h1.2, h2.1, h2.2, h3.1, h3.2, by decide⟩

theorem witness_TooFew : (registrationOf { matchFrame with detection := .finished [] [] } (matching ⟨0, 64⟩ 16 16 64)).reason = .tooFew := by
  rfl

/-- PLACING slot 1 at this canvas column (quarter pixels), with these resident tiles; E is 63. -/
def placing (ox : Int) (tiles : List Tile) : State :=
  let s := matching ⟨0, 64⟩ 16 16 64
  { s with
    ring := { Ring.zero with tiles := tiles }
    reg := { s.reg with engine := .placing, handover := some ⟨⟨ox, 64⟩, ⟨ox, 0⟩, 3, 3⟩ } }

theorem witness_Placing (ox : Int) (tiles : List Tile) : (placing ox tiles).power = .running ∧ (placing ox tiles).reg.engine = .placing ∧
    (placing ox tiles).reg.work = some 1 ∧ (placing ox tiles).capture.slots.get 1 = some matchFrame ∧
    (placing ox tiles).reg.handover = some ⟨⟨ox, 64⟩, ⟨ox, 0⟩, 3, 3⟩ ∧ (placing ox tiles).tables.columnMap = some map64 :=
  ⟨rfl, rfl, rfl, rfl, rfl, rfl⟩

/-- E = 63, F = 2, K = 64: column 65 is a GAP, column 64 is not; column 0 gives no fresh column, so SLOW; column 1 writes columns 62
to 64, and tile 0 must be OPEN and one slot free. -/
theorem witness_PlacementTests : (63 : Int) + 1 < 260 / 4 ∧ ¬((63 : Int) + 1 < 256 / 4) ∧ min ((0 : Int) / 4 + 64 - 1) (1024 - 1) ≤ 63 ∧
    (63 : Int) < min (4 / 4 + 64 - 1) (1024 - 1) ∧ (63 : Int) - min 2 (63 - 4 / 4 + 1) + 1 = 62 ∧ (62 : Int) / 64 ≤ 0 ∧ (0 : Int) ≤ 64 / 64 ∧
    (0 : Int) ≤ 63 / 64 ∧ (∀ t ∈ (placing 4 [bareTile 0 .sealed 0]).ring.tiles, (t.index : Int) = 0 → t.state ≠ .opened) ∧
    (∃ t ∈ (placing 4 [bareTile 0 .opened 0]).ring.tiles, (t.index : Int) = 0 ∧ t.state = .opened) ∧
    (64 : Int) / 64 - 63 / 64 ≤ (32 - (placing 4 [bareTile 0 .opened 0]).ring.tiles.length : Nat) ∧
    (32 - (List.replicate 32 (bareTile 0 .opened 0)).length : Nat) < (64 : Int) / 64 - 63 / 64 := by decide

/-- One keypoint at (10, 20) of a map whose entries 1 and 2 lie equally near: the anchor takes entry 1. -/
theorem test_anchor : buildAnchors { map64 with entries := [⟨0, 4096, 4096⟩, ⟨38, 2048, 4096⟩, ⟨42, 4096, 4096⟩] } ⟨100, 200⟩ 1
      [⟨0, 0, 10, 20, .dark, 50, 0x8000, 1, none⟩] =
    [⟨104, 600, .dark, 1, 2, 0, none⟩] := by decide

theorem witness_Anchors : map64.entries ≠ [] ∧ (∀ e ∈ map64.entries, 4096 ≤ e.t) ∧ map64.yc < 181 ∧
    driftCrop map64 ⟨0, 0⟩ 181 181 63 63 = false ∧ driftCrop map64 ⟨0, -4⟩ 181 181 63 63 = true ∧
    (64 : Int) = ((65 : Nat) : Int) - 1 := by decide +kernel

/-! The compositor and the ring. -/

/-- A frame of 640 x 360 with three stored rows and two chroma rows, the entry at canvas row 0, and a canvas of 4 rows. -/
def paintInputs4 : PaintInputs :=
  ⟨map64, feather2, 4096, 4, { frame .placed 360 0 with luma := List.replicate 3 (List.replicate 640 200), chroma := List.replicate 2 (List.replicate 320 (90, 60)) },
    ⟨0, ⟨4 * 62, 4⟩, 63, 2, 125, 0, 0, 1⟩⟩

/-- The tile of columns 0 to 63 before, each column written in rows 2 to 3. -/
def tileBefore : Tile :=
  ⟨0, .opened, 1, List.replicate 64 (some ⟨2, 3⟩), List.replicate 64 [0, 0, 7, 7], List.replicate 32 [(128, 128), (128, 128)]⟩

/-- In column 62, the first of the band, row 0 is not covered, row 1 is covered and was not, row 2 is covered and was; column 61 is
below the band. -/
theorem witness_Composite : (62 < 64 ∧ 3 < paintInputs4.hc) ∧ tileBefore.luma.length = 64 ∧
    (∀ col ∈ tileBefore.luma, col.length = paintInputs4.hc) ∧
    (paintInputs4.entry.firstTile ≤ tileBefore.index ∧ tileBefore.index ≤ paintInputs4.entry.lastTile) ∧
    paintInputs4.entry.eOld - paintInputs4.entry.band + 1 = 62 ∧
    rowCovered map64 (entryOfColumn map64 ⟨4 * 62, 4⟩ 62) ⟨4 * 62, 4⟩ 360 0 = false ∧
    rowCovered map64 (entryOfColumn map64 ⟨4 * 62, 4⟩ 62) ⟨4 * 62, 4⟩ 360 1 = true ∧
    rowCovered map64 (entryOfColumn map64 ⟨4 * 62, 4⟩ 62) ⟨4 * 62, 4⟩ 360 2 = true ∧ feather2.values.getD 0 0 ≤ 256 ∧
    (paintTile paintInputs4 tileBefore).luma.getD 62 [] = [0, 200, 104, 104] ∧
    (paintTile paintInputs4 tileBefore).luma.getD 61 [] = [0, 0, 7, 7] := by decide +kernel

/-- Column 64, in tile 1, is fresh: row 0 is fill, row 1 the frame's. -/
theorem witness_Fresh : (paintTile paintInputs4 { tileBefore with index := 1 }).luma.getD 0 [] = [0, 200, 200, 200] := by decide +kernel

/-- The chroma of columns 62 and 64: row pair 0 is not covered, row pair 1 is covered and was. -/
theorem witness_Chroma : tileBefore.chroma.length = 32 ∧ (∀ col ∈ tileBefore.chroma, col.length = paintInputs4.hc / 2) ∧
    2 / 2 < paintInputs4.hc / 2 ∧
    (paintTile paintInputs4 tileBefore).chroma.getD 31 [] = [(128, 128), (109, 94)] ∧
    (paintTile paintInputs4 { tileBefore with index := 1 }).chroma.getD 0 [] = [(128, 128), (90, 60)] := by decide +kernel

/-- R145: the frame covers rows 1 to 3 of column 62, written in rows 2 to 3, and a frame placed a hundred rows down none of them. -/
theorem witness_Coverage : (1 < paintInputs4.hc ∧ 0 ≤ sourceRow map64 (entryOfColumn map64 ⟨4 * 62, 4⟩ 62) ⟨4 * 62, 4⟩ 1 ∧
      sourceRow map64 (entryOfColumn map64 ⟨4 * 62, 4⟩ 62) ⟨4 * 62, 4⟩ 1 < 360) ∧
    (∀ q : Nat, q < 4 → sourceRow map64 (entryOfColumn map64 ⟨4 * 62, 400⟩ 62) ⟨4 * 62, 400⟩ (q : Int) < 0) ∧
    (paintTile paintInputs4 tileBefore).coverage.getD 62 none = some ⟨1, 3⟩ ∧
    (paintTile paintInputs4 tileBefore).coverage.getD 61 none = some ⟨2, 3⟩ := by decide +kernel

theorem witness_Sealing : (∃ c ∈ (bareTile 0 .opened 0).coverage, c ≠ none) ∧ ∀ c ∈ (freshTile 0 0).coverage, c = none := by decide +kernel

/-- An empty queue without credits and without an episode: the tile that seals begins one (R165); with a credit none begins. -/
def sealingInto (credits : Nat) : State :=
  { waitingTiles credits with
    ring := { (waitingTiles credits).ring with tiles := [bareTile 0 .opened 0], sealedQueue := [] }
    notes := { NoteUnit.zero with unmasked := .const true } }

theorem test_starves : (sealTile (sealingInto 0) (bareTile 0 .opened 0)).notes.queue = [.event .creditStarved 0 [0, 0, 1, 1]] ∧
    (sealTile (sealingInto 0) (bareTile 0 .opened 0)).ring.starved = true ∧
    (sealTile (sealingInto 1) (bareTile 0 .opened 0)).notes.queue = [] := by decide +kernel

/-- Every coast counter at its boundary: coast_limit 3. -/
theorem witness_Coast : (sweeping .tracking .allFree []).sweep.coastAgrees ∧ (sweeping .armed .allFree []).sweep.coastAgrees ∧
    (sweeping .draining .allFree []).sweep.coastAgrees ∧ { (sweeping .coasting .allFree []).sweep with coast := 2 }.coastAgrees ∧
    (0 : Nat) + 1 < 3 ∧ (3 : Nat) ≤ 2 + 1 := by
  unfold Sweep.coastAgrees; decide

/-- TRACKING: slot 0 PLACED with its entry queued, slot 1 REGISTERING, slot 2 READY; tile 0 SEALED, tile 1 OPEN with one writer. -/
def busySweep : State :=
  let s := sweeping .tracking ⟨some (frame .placed 360 0), some matchFrame, some (frame .ready 360 0)⟩ [0, 1, 2]
  { s with
    reg := { Registration.zero with engine := .matching, work := some 1 }
    placement := ⟨127, 100, ⟨256, 64⟩, 0, ⟨0, 0⟩⟩
    comp := ⟨false, [⟨0, ⟨256, 64⟩, 63, 0, 127, 0, 1, 1⟩]⟩
    ring := ⟨[bareTile 0 .sealed 0, bareTile 1 .opened 1], [0], none, 0, true, none⟩ }

theorem busySweep_coherent : busySweep.coherent := by
  refine ⟨?_, ?_, ?_⟩
  · unfold State.captureAgrees; decide
  · unfold State.workAgrees; decide
  · unfold State.phaseAgrees; decide

theorem busySweep_ring : busySweep.ringAgrees ∧ busySweep.writersAgree := by
  refine ⟨⟨by decide, by decide, by decide, by decide, fun n => ?_, ?_, by decide⟩, by unfold State.writersAgree; decide⟩
  · simp [busySweep, sweeping, bareTile, eq_comm]
  · intro t ht h
    rcases List.mem_cons.1 ht with rfl | ht
    · cases h
    · rcases List.mem_singleton.1 ht with rfl; cases h

/-- E = 127, F = 2: tile 0 would seal at 63, tile 1 would not at 127; without writers both seal in DRAINING. -/
def openTiles2 (st : SweepState) : State :=
  { busySweep with
    sweep := { busySweep.sweep with state := st }
    ring := { Ring.zero with tiles := [bareTile 0 .opened 0, bareTile 1 .opened 0] } }

theorem test_seals : (examineTiles (openTiles2 .tracking)).ring.sealedQueue = [0] ∧
    (examineTiles (openTiles2 .draining)).ring.sealedQueue = [0, 1] ∧ (examineTiles (openTiles2 .armed)).ring.sealedQueue = [] ∧
    ((openTiles2 .tracking).ring.tiles.map (·.index)).Pairwise (· < ·) := by decide

theorem busySweep_tables : busySweep.tablesAgree ∧ busySweep.sweep.paramsAgree :=
  ⟨⟨tables64_sound, fun _ => rfl⟩, fun _ => by unfold SweepParams.legal; decide⟩

/-- The busy sweep with a composite take waiting meets every premise of the invariant statements, and its step has a next state. -/
theorem witness_Invariants : let s := queued .compositeTake busySweep
    (s.notes.settled ∧ s.repliesAgree) ∧ (s.roomsKept ∧ s.creditsKept ∧ s.counters.sound ∧ s.store.sound) ∧
      (s.tablesAgree ∧ s.sweep.paramsAgree) ∧ s.sweep.coastAgrees ∧ s.coherent ∧
      (s.ringAgrees ∧ s.writersAgree ∧ s.ring.tiles.length ≤ 32) ∧ (s.laneAgrees ∧ s.inlet.kept) ∧ ∃ t, step s = .next t :=
  ⟨⟨settled_empty _ rfl, by unfold State.repliesAgree; decide⟩,
    ⟨by unfold State.roomsKept; decide, by unfold State.creditsKept; decide, by unfold Counters.sound; decide, delivered_sound⟩,
    busySweep_tables, by unfold Sweep.coastAgrees; decide, busySweep_coherent,
    ⟨busySweep_ring.1, busySweep_ring.2, by decide⟩, ⟨fun _ _ _ => ⟨rfl, rfl, .inl rfl⟩, trivial⟩, _, rfl⟩

/-- The take leaves the SEALED tile resident, with what it holds. -/
theorem witness_Sealed : (after (step (queued .compositeTake busySweep))).map (fun t => t.ring.tiles) =
    some [bareTile 0 .sealed 0, bareTile 1 .opened 1] ∧ (bareTile 0 .sealed 0).state ≠ .opened := by decide

theorem witness_Ended : (sweeping .ended .allFree []).coherent ∧ (sweeping .ended .allFree []).sweep.state = .ended := by
  refine ⟨⟨?_, ?_, ?_⟩, rfl⟩
  · unfold State.captureAgrees; decide
  · unfold State.workAgrees; decide
  · unfold State.phaseAgrees; decide

/-- The events of `busySweep` keep E; a placement raises it. -/
theorem witness_HighWater : busySweep.coherent ∧ after (exec .compositeTake busySweep) ≠ none ∧
    (∀ high, Instr.compositeTake ≠ .resetRelease high) := ⟨busySweep_coherent, by decide, fun _ h => by cases h⟩

/-! Detection, projection, matching. -/

theorem witness_Cell : cellNine.Pairwise (fun a b => rasterBefore a b = true) ∧ 4 < cellNine.length ∧
    (cellNine.take 4).Pairwise (fun a b => rasterBefore a b = true) := by decide

/-- Eight rows of nine dark samples with a bright pair at (3, 3) and (4, 3). -/
def brightPair : List (List Byte) := (List.range 8).map fun y => (List.range 9).map fun x => if y = 3 ∧ (x = 3 ∨ x = 4) then 200 else 0

/-- R62 to R67 by hand: all sixteen terms are 200 - 0 - 10, so each is a candidate of strength 3040 with codes 0; the later one in
raster order is suppressed; a position outside the area and a dark one are none. -/
theorem test_candidates : candidateAt 10 9 8 brightPair 3 3 = some ⟨3, 3, .bright, 3040, 0, 0⟩ ∧
    candidateAt 10 9 8 brightPair 4 3 = some ⟨4, 3, .bright, 3040, 0, 0⟩ ∧ candidateAt 10 9 8 brightPair 2 3 = none ∧
    candidateAt 10 9 8 brightPair 5 4 = none ∧ suppressed 10 9 8 brightPair ⟨3, 3, .bright, 3040, 0, 0⟩ = false ∧
    suppressed 10 9 8 brightPair ⟨4, 3, .bright, 3040, 0, 0⟩ = true := by decide +kernel

/-- R61: row 5 evaluates none, row 6 evaluates row 3, row 7 decides row 3 and, as the last of eight, row 4. -/
theorem test_offers : offerRow 10 9 8 brightPair (.working 5 [] [[]] [false]) = .working 6 [] [[]] [false] ∧
    offerRow 10 9 8 brightPair (.working 6 [] [[]] [false]) =
      .working 7 [⟨3, 3, .bright, 3040, 0, 0⟩, ⟨4, 3, .bright, 3040, 0, 0⟩] [[]] [false] ∧
    (match offerRow 10 9 8 brightPair (.working 7 [⟨3, 3, .bright, 3040, 0, 0⟩, ⟨4, 3, .bright, 3040, 0, 0⟩]
        (List.replicate 32 []) (List.replicate 32 false)) with
      | .working n pend cells _ => (n, pend, cells.flatten)
      | .finished _ _ => (0, [], [])) = (8, [], [⟨3, 3, .bright, 3040, 0, 0⟩]) := by decide +kernel

theorem witness_Run : 4096 ≤ (MapEntry.mk 0 4096 4096).t ∧ coveredSpan map64 ⟨0, 4096, 4096⟩ ⟨0, 4⟩ 2 4 = some ⟨1, 2⟩ ∧
    coveredSpan map64 ⟨0, 4096, 4096⟩ ⟨0, 64⟩ 2 4 = none := by decide

theorem witness_Matching : (∀ a ∈ displacedAnchors ⟨0, 64⟩ 16, a.claim = none) ∧ (∀ k ∈ threeKeypoints, k.matched = none) ∧
    (legalParams 1024 16 64).rx ≤ 252 ∧ (legalParams 1024 16 64).ry ≤ 124 := by decide

/-- The search for the keypoint at (0, 10) of a frame at (0, 64), with these anchors; dmax is 12 and early 4. -/
def searched (anchors : List Anchor) : List (Option Claim) × List (Option Claim) :=
  let st := searchCandidate (matchInputs matchFrame (matching ⟨0, 64⟩ 16 16 64)) ⟨anchors, threeKeypoints⟩ ⟨0, 0, 0, 10, .bright, 50, 0, 0, none⟩
  (st.anchors.map (·.claim), st.keypoints.map (·.matched))

/-- An anchor at the search point (0, 104) with this ring code and claim. -/
def anchorAt (ax : Int) (code : Half) (claim : Option Claim) : Anchor := ⟨ax, 104, .bright, code, 0, 0, claim⟩

/-- R109 to R112 at their bounds: no anchor within 64; the first at a distance of at most 4 before a nearer one; at 12 claimed, at 13
not; held at 2, taken over from it at 1, kept from it at 2. -/
theorem test_search : searched [anchorAt 65 0 none] = ([none], [none, none, none]) ∧
    searched [anchorAt 65 0 none, anchorAt 64 0x000F none, anchorAt 0 0 none] =
      ([none, some ⟨0, 4⟩, none], [some ⟨1, 4⟩, none, none]) ∧
    searched [anchorAt 0 0x001F none, anchorAt 0 0x001F none] = ([some ⟨0, 5⟩, none], [some ⟨0, 5⟩, none, none]) ∧
    searched [anchorAt 0 0x0FFF none] = ([some ⟨0, 12⟩], [some ⟨0, 12⟩, none, none]) ∧
    searched [anchorAt 0 0x1FFF none] = ([none], [none, none, none]) ∧
    searched [anchorAt 0 1 (some ⟨2, 2⟩)] = ([some ⟨0, 1⟩], [some ⟨0, 1⟩, none, none]) ∧
    searched [anchorAt 0 3 (some ⟨2, 2⟩)] = ([some ⟨2, 2⟩], [none, none, none]) := by decide +kernel

theorem witness_Indexed : ∀ (n : Nat) (k : Keypoint), threeKeypoints[n]? = some k → k.index = n := by
  intro n k h
  match n with
  | 0 => cases h; rfl
  | 1 => cases h; rfl
  | 2 => cases h; rfl
  | n + 3 => cases h

end Sys2Proof.Tests
end

section
/-! PROOF. O13 (R10, R50, R56): when the capture unit ignores a LINE or SHUT, and what the forward queue does with a packet. -/

namespace Sys2Proof.Proofs

open Sys2Proof.Machine

/-! ### A whole LINE or SHUT (R9) -/

theorem exec_linePacket (body : List Byte) (s : State) : exec (.linePacket body) s = execLine body s := rfl

theorem exec_shutPacket (body : List Byte) (s : State) : exec (.shutPacket body) s = execShut body s := rfl

theorem exec_linePacket_of_canComplete {s : State} {body : List Byte} (hp : s.power = .running)
    (hc : canComplete .lineKind body s = true) :
    exec (.linePacket body) s =
      .next (arbitrate (captureLinePacket body (offerForward ⟨.lineKind, body⟩ (receivePacket body s)))) := by
  rw [exec_linePacket, execLine, event_enabled hp hc]

theorem exec_shutPacket_of_canComplete {s : State} {body : List Byte} (hp : s.power = .running)
    (hc : canComplete .shutKind body s = true) :
    exec (.shutPacket body) s =
      .next (arbitrate (captureShutPacket (offerForward ⟨.shutKind, body⟩ (receivePacket body s)))) := by
  rw [exec_shutPacket, execShut, event_enabled hp hc]

/-! ### The capture unit's choice of a slot -/

/-- Which slot is FILLING depends on the capture unit alone. -/
theorem fillingSlot_congr {s t : State} (h : t.capture = s.capture) : fillingSlot t = fillingSlot s := by
  unfold fillingSlot lowestIn slotState
  rw [h]

/-- The receiver and the forward queue, which a LINE or SHUT reaches first, do not choose the slot. -/
@[simp] theorem fillingSlot_offerForward (p : Packet) (s : State) : fillingSlot (offerForward p s) = fillingSlot s :=
  fillingSlot_congr (offerForward_capture p s)

@[simp] theorem fillingSlot_receivePacket (body : List Byte) (s : State) :
    fillingSlot (receivePacket body s) = fillingSlot s :=
  fillingSlot_congr (receivePacket_capture body s)

theorem captureLinePacket_of_no_filling {s : State} (h : fillingSlot s = none) (body : List Byte) :
    captureLinePacket body s = s := by
  simp [captureLinePacket, h]

theorem captureLinePacket_of_filling {s : State} {i : Fin 3} {f : CapturedFrame} (hi : fillingSlot s = some i)
    (hf : s.capture.slots.get i = some f) (body : List Byte) : captureLinePacket body s = captureLine i f body s := by
  simp [captureLinePacket, hi, hf]

theorem captureShutPacket_of_no_filling {s : State} (h : fillingSlot s = none) : captureShutPacket s = s := by
  simp [captureShutPacket, h]

/-- R50: a line already stored or made up, or past the frame's last line, is ignored. -/
theorem captureLine_of_not_expected {f : CapturedFrame} {body : List Byte}
    (h : lineNumber body < f.record.nextLine ∨ f.record.h ≤ lineNumber body) (i : Fin 3) (s : State) :
    captureLine i f body s = s :=
  if_pos h.symm

/-! ### The forward queue (R10) -/

theorem offerForward_of_room {s : State} (h : s.forward.length < 4) (p : Packet) :
    offerForward p s = { s with forward := s.forward ++ [p] } :=
  if_pos h

theorem offerForward_of_full {s : State} (h : 4 ≤ s.forward.length) (p : Packet) :
    offerForward p s =
      { raise .passthroughDrop
          [natWord (kindCode p.kind).toNat, natWord s.capture.seq.toNat, natWord (droppedLine p)] s with
        counters := { s.counters with passthroughDrops := saturate16 (s.counters.passthroughDrops + 1) } } :=
  if_neg (Nat.not_lt.2 h)

/-! ### The obligation -/

/-- R10, R50, R56: the two ways in which the capture unit ignores a LINE. -/
theorem exec_linePacket_of_ignored {s : State} {body : List Byte} (hp : s.power = .running)
    (hc : canComplete .lineKind body s = true)
    (h : fillingSlot s = none ∨ ∃ i f, fillingSlot s = some i ∧ s.capture.slots.get i = some f ∧
      (lineNumber body < f.record.nextLine ∨ f.record.h ≤ lineNumber body)) :
    exec (.linePacket body) s = .next (arbitrate (offerForward ⟨.lineKind, body⟩ (receivePacket body s))) := by
  rw [exec_linePacket_of_canComplete hp hc]
  rcases h with hn | ⟨i, f, hi, hf, hline⟩
  · rw [captureLinePacket_of_no_filling (by simpa using hn)]
  · rw [captureLinePacket_of_filling (i := i) (f := f) (by simpa using hi) (by simpa using hf),
      captureLine_of_not_expected hline]

/-- R10, R56: the capture unit ignores a SHUT while no slot is FILLING. -/
theorem exec_shutPacket_of_ignored {s : State} {body : List Byte} (hp : s.power = .running)
    (hc : canComplete .shutKind body s = true) (hn : fillingSlot s = none) :
    exec (.shutPacket body) s = .next (arbitrate (offerForward ⟨.shutKind, body⟩ (receivePacket body s))) := by
  rw [exec_shutPacket_of_canComplete hp hc, captureShutPacket_of_no_filling (by simpa using hn)]

/-- Settles O13: what the capture unit ignores passes the receiver and is offered; the queue's length decides the offer. -/
theorem uncapturedPacketIsOnlyForwarded : Obligations.UncapturedPacketIsOnlyForwarded :=
  ⟨fun _ _ hp => ⟨exec_linePacket_of_ignored hp, exec_shutPacket_of_ignored hp⟩,
    fun _ p => ⟨fun h => offerForward_of_room h p, fun h => offerForward_of_full h p⟩⟩

end Sys2Proof.Proofs
end

section
/-! PROOF. O26 (R23 to R26): SWEEP_ARM's checks, its parameters brought into range, the sweep set up and the reply's words. -/

namespace Sys2Proof.Proofs

open Sys2Proof.Machine

variable {s : State} {body : List Byte} {rest : List (List Byte)} {ps : List Nat} {m : ColumnMap}

/-! ### The checks of R23 -/

theorem exec_sweepArm (s : State) : exec .sweepArm s = execSweepArm s := rfl

theorem exec_sweepArm_of_format (h : s.offers body rest) (hc : dirCode body = 0x10)
    (hn : ∀ ps, dirParams body = some ps → ps.length ≠ 13) :
    exec .sweepArm s = .next (arbitrate (replyTo body .format [] (s.taken rest))) := by
  rw [exec_sweepArm]
  exact takeDirective_format (act := checkArm) h (by simp [hc]) hn

theorem exec_sweepArm_of_params (h : s.offers body rest) (hc : dirCode body = 0x10) (hp : dirParams body = some ps)
    (hn : ps.length = 13) : exec .sweepArm s = .next (arbitrate (checkArm body ps (s.taken rest))) := by
  rw [exec_sweepArm]
  exact takeDirective_params (act := checkArm) h (by simp [hc]) hp hn

/-- All three tables are VALID exactly when the sum of R174 word 13 is 7. -/
theorem tableValidity_eq_seven_iff (t : Tables) :
    tableValidity t = 7 ↔ t.columnMap ≠ none ∧ t.feather ≠ none ∧ t.gain ≠ none := by
  unfold tableValidity
  cases t.columnMap <;> cases t.feather <;> cases t.gain <;> simp

theorem directionOf_of_one_lt {n : Nat} (h : 1 < n) : directionOf n = none := by
  simp [directionOf, show n ≠ 0 by omega, show n ≠ 1 by omega]

theorem directionOf_of_le_one {n : Nat} (h : n ≤ 1) :
    directionOf n = some (if n = 0 then .rightward else .leftward) := by
  interval_cases n <;> rfl

theorem directionCode_of_le_one {n : Nat} (h : n ≤ 1) : directionCode (if n = 0 then .rightward else .leftward) = n := by
  interval_cases n <;> rfl

theorem checkArm_of_not_idle (h : s.sweep.state ≠ .idle) (body : List Byte) (ps : List Nat) :
    checkArm body ps s = replyTo body .wrongState [] s :=
  if_pos h

theorem checkArm_of_no_tables (hi : s.sweep.state = .idle) (h : tableValidity s.tables ≠ 7) (body : List Byte)
    (ps : List Nat) : checkArm body ps s = replyTo body .noTables [] s := by
  rw [checkArm, if_neg (not_not.2 hi), if_pos h]

theorem checkArm_of_range (hi : s.sweep.state = .idle) (ht : tableValidity s.tables = 7) (h : 1 < ps.getD 0 0)
    (body : List Byte) : checkArm body ps s = replyTo body .range [] s := by
  rw [checkArm, if_neg (not_not.2 hi), if_neg (not_not.2 ht), directionOf_of_one_lt h]

theorem checkArm_of_accepted {d : Direction} (hi : s.sweep.state = .idle) (ht : tableValidity s.tables = 7)
    (h : directionOf (ps.getD 0 0) = some d) (body : List Byte) :
    let s1 := armSweep (armedParams d (mapWidth (workingMap s.tables)) ps) s
    checkArm body ps s = replyTo body .done (armWords ps s1) s1 := by
  rw [checkArm, if_neg (not_not.2 hi), if_neg (not_not.2 ht), h]

/-! ### The parameters brought into range (R24) -/

@[simp] theorem bringIntoRange_unit (lo hi v : Nat) : bringIntoRange lo hi 1 v = max lo (min hi v) := by
  simp [bringIntoRange]

@[simp] theorem bringIntoRange_from_zero (hi multiple v : Nat) :
    bringIntoRange 0 hi multiple v = min hi v / multiple * multiple := by
  simp [bringIntoRange]

theorem armedParams_eq (d : Direction) (k : Nat) (ps : List Nat) :
    let v := fun n => ps.getD n 0
    armedParams d k ps =
      { direction := d
        margin := min 256 (v 1) / 4 * 4
        wmax := max (max 1024 ((k + 63) / 64 * 64)) (min 16384 (v 2)) / 64 * 64
        tau := max 4 (min 63 (v 3))
        dmax := min 12 (v 4)
        early := min (min 12 (v 4)) (v 5)
        rx := max 16 (min 252 (v 6)) / 4 * 4
        ry := max 16 (min 124 (v 7)) / 4 * 4
        minSupport := max 3 (min 32 (v 8))
        aMin := min 1024 (v 9)
        tRev := min 256 (v 10)
        coastLimit := max 1 (min 30 (v 11))
        credits := min 255 (v 12) } := by
  simp only [armedParams, bringIntoRange_unit, bringIntoRange_from_zero]
  rfl

/-! ### The reply (R26) -/

/-- The places where two lists of one length differ, counted by index and counted pairwise. -/
theorem length_filter_range_getD_ne : ∀ {a b : List Nat}, a.length = b.length →
    ((List.range a.length).filter fun n => decide (a.getD n 0 ≠ b.getD n 0)).length =
      (a.zip b).countP fun x => decide (x.1 ≠ x.2)
  | [], [], _ => rfl
  | x :: a, y :: b, h => by
    have ih := length_filter_range_getD_ne (Nat.succ.inj h)
    rw [List.length_cons, List.range_succ_eq_map, List.filter_cons, List.filter_map, List.zip_cons_cons, List.countP_cons, ← ih]
    by_cases hxy : x = y <;> simp [hxy, Function.comp_def]

/-- The direction is recorded as it was sent, so leaving it out of the count, as R26 word 16 does, loses nothing. -/
theorem changedCount_eq {p : SweepParams} (hn : ps.length = 13) (hd : directionCode p.direction = ps.getD 0 0) :
    changedCount ps p = ((List.range 13).filter fun n => decide (ps.getD n 0 ≠ (paramList p).getD n 0)).length := by
  rw [← hn, length_filter_range_getD_ne (by rw [hn]; rfl)]
  cases ps with
  | nil => cases hn
  | cons x ps =>
    have hx : directionCode p.direction = x := hd
    simp [changedCount, paramList, hx]

theorem armWords_armSweep (ps : List Nat) (p : SweepParams) (hm : s.tables.columnMap = some m) :
    armWords ps (armSweep p s) = [natWord (nextSweepId s.sweep.id)] ++ (paramList p).map natWord ++
      [natWord (m.hFor + 2 * p.margin), natWord p.credits, natWord (changedCount ps p)] := by
  simp [armWords, armSweep, workingMap, hm]

/-! ### The sweep set up (R25) -/

theorem armSweep_eq (p : SweepParams) (hm : s.tables.columnMap = some m) :
    armSweep p s = changeSweep .armed .none { s with
      sweep := ⟨s.sweep.state, s.sweep.cause, nextSweepId s.sweep.id, p, m.hFor + 2 * p.margin, 0, 0, 0⟩
      placement := ⟨-1, s.placement.e0, ⟨0, 0⟩, 0, ⟨0, 0⟩⟩
      reg := { s.reg with pred := ⟨0, 0⟩, votes := List.replicate 512 0 }
      ring := { s.ring with crop := none, credits := p.credits, starved := false } } := by
  simp only [armSweep, workingMap, hm, Option.getD_some]
  rfl

/-! ### The obligation -/

/-- Settles O26: `checkArm` answers at the first check that fails, and an accepted SWEEP_ARM is `armSweep` with the parameters of
`armedParams_eq`, replied to with the words of `armWords_armSweep`. -/
theorem sweepArmChecksThenRecordsItsParameters : Obligations.SweepArmChecksThenRecordsItsParameters := by
  intro s body rest ho hcode
  refine ⟨exec_sweepArm_of_format ho hcode, fun ps hps hn => ?_⟩
  intro v
  have hexec := exec_sweepArm_of_params ho hcode hps hn
  refine ⟨fun hs => ?_, fun hs ht => ?_, fun hs hmap hfeather hgain hv => ?_, ?_⟩
  · rw [hexec, checkArm_of_not_idle (s := s.taken rest) hs]
  · have hmissing : tableValidity (s.taken rest).tables ≠ 7 := fun h7 => by
      obtain ⟨hmap, hfeather, hgain⟩ := (tableValidity_eq_seven_iff _).1 h7
      exact ht.elim hmap (·.elim hfeather hgain)
    rw [hexec, checkArm_of_no_tables (s := s.taken rest) hs hmissing]
  · rw [hexec, checkArm_of_range (s := s.taken rest) hs ((tableValidity_eq_seven_iff _).2 ⟨hmap, hfeather, hgain⟩) hv]
  · intro m hs hmap hfeather hgain hv least p recorded id hc
    have ht : tableValidity (s.taken rest).tables = 7 :=
      (tableValidity_eq_seven_iff _).2 ⟨by simp [hmap], hfeather, hgain⟩
    have hparams : armedParams (if v 0 = 0 then .rightward else .leftward) (mapWidth (workingMap (s.taken rest).tables)) ps
        = p := by
      rw [armedParams_eq]
      simp only [workingMap, State.taken_tables, hmap, Option.getD_some]
      rfl
    have hrecorded : paramList p = recorded := by
      simp only [paramList, p, recorded, directionCode_of_le_one hv]
    have hcount := changedCount_eq (p := p) hn (directionCode_of_le_one hv)
    rw [hexec, checkArm_of_accepted (s := s.taken rest) hs ht (directionOf_of_le_one hv), hparams,
      armWords_armSweep ps p (s := s.taken rest) hmap, armSweep_eq p (s := s.taken rest) hmap, hcount, hrecorded]
    rfl

end Sys2Proof.Proofs
end

section
/-! PROOF. O46 (R30, R41): a decided outcome moves the coast counter, is counted and reported, and the sweep state follows. -/

namespace Sys2Proof.Proofs

open Sys2Proof.Machine

variable {r : OutcomeRecord} {o : FrameOutcome} {e : CoastEffect} {s : State}

/-! ### R30's table -/

/-- R30: but for DAMAGED, a miss increments the counter in every state. -/
theorem coastEffect_of_miss_ne_damaged (st : SweepState)
    (ho : o = .failed ∨ o = .reversed ∨ o = .full ∨ o = .drifted ∨ o = .gap ∨ o = .damaged) (hd : o ≠ .damaged) :
    coastEffect o st = .increment := by
  rcases ho with rfl | rfl | rfl | rfl | rfl | rfl
  exacts [rfl, rfl, rfl, rfl, rfl, absurd rfl hd]

theorem coastEffect_of_miss {st : SweepState} (hs : st = .tracking ∨ st = .coasting)
    (ho : o = .failed ∨ o = .reversed ∨ o = .full ∨ o = .drifted ∨ o = .gap ∨ o = .damaged) :
    coastEffect o st = .increment := by
  by_cases hd : o = .damaged
  · rw [hd]; exact if_pos hs
  · exact coastEffect_of_miss_ne_damaged st ho hd

theorem coastEffect_of_composited_or_slow (st : SweepState) (ho : o = .composited ∨ o = .slow) :
    coastEffect o st = .clear := by
  rcases ho with rfl | rfl <;> rfl

theorem coastEffect_of_notCaptured_geometry_discarded (st : SweepState)
    (ho : o = .notCaptured ∨ o = .geometry ∨ o = .discarded) : coastEffect o st = .keep := by
  rcases ho with rfl | rfl | rfl <;> rfl

theorem coastCause_eq (o : FrameOutcome) :
    coastCause o = if o = .reversed then .reversal else if o = .full then .starved
      else if o = .drifted then .drift else .lost := by
  cases o <;> rfl

theorem coastAfter_le {n limit : Nat} (h : n ≤ limit) (e : CoastEffect) : coastAfter e n limit ≤ limit := by
  cases e with
  | increment => exact Nat.min_le_left _ _
  | clear => exact Nat.zero_le _
  | keep => exact h

/-! ### The outcome counted and reported (R41 steps 2 and 3) -/

/-- The state with the coast counter at n and the outcome counted and reported, before the sweep state follows: what the statement
of O46 compares a decided outcome with. -/
def countOutcome (r : OutcomeRecord) (n : Nat) (s : State) : State :=
  let good := decide (r.outcome = .seed ∨ r.outcome = .composited)
  raise .frameOutcome (outcomeWords r s.sweep.id n) { s with
    sweep := { s.sweep with
      coast := n
      framesComposited := if good then min 65535 (s.sweep.framesComposited + 1) else s.sweep.framesComposited }
    counters := { s.counters with
      framesComposited := if good then min 65535 (s.counters.framesComposited + 1) else s.counters.framesComposited
      framesNotComposited :=
        if good then s.counters.framesNotComposited else min 65535 (s.counters.framesNotComposited + 1) } }

@[simp] theorem countOutcome_sweep_state (r : OutcomeRecord) (n : Nat) (s : State) :
    (countOutcome r n s).sweep.state = s.sweep.state := rfl
@[simp] theorem countOutcome_sweep_cause (r : OutcomeRecord) (n : Nat) (s : State) :
    (countOutcome r n s).sweep.cause = s.sweep.cause := rfl
@[simp] theorem countOutcome_sweep_params (r : OutcomeRecord) (n : Nat) (s : State) :
    (countOutcome r n s).sweep.params = s.sweep.params := rfl
@[simp] theorem countOutcome_sweep_coast (r : OutcomeRecord) (n : Nat) (s : State) : (countOutcome r n s).sweep.coast = n := rfl

theorem countsAsComposited_eq (o : FrameOutcome) : countsAsComposited o = decide (o = .seed ∨ o = .composited) := by
  cases o <;> rfl

theorem recordOutcome_with_coast (r : OutcomeRecord) (n : Nat) (s : State) :
    recordOutcome r { s with sweep := { s.sweep with coast := n } } = countOutcome r n s := by
  unfold recordOutcome countOutcome
  rw [countsAsComposited_eq]
  cases decide (r.outcome = .seed ∨ r.outcome = .composited) <;> rfl

/-! ### What follows the counter (R30, R41 step 4) -/

theorem followCoast_armed (h : s.sweep.state = .armed) (o : FrameOutcome) (e : CoastEffect) :
    followCoast o e s = if o = .seed then changeSweep .tracking .none s else s := by
  simp [followCoast, h]

theorem followCoast_increment_below (h : s.sweep.state = .tracking ∨ s.sweep.state = .coasting)
    (hc : s.sweep.coast < s.sweep.params.coastLimit) (o : FrameOutcome) :
    followCoast o .increment s =
      if s.sweep.state = .tracking then changeSweep .coasting s.sweep.cause s else s := by
  rcases h with h | h <;> simp [followCoast, h, Nat.not_le.2 hc]

theorem followCoast_increment_at_limit (h : s.sweep.state = .tracking ∨ s.sweep.state = .coasting)
    (hc : s.sweep.params.coastLimit ≤ s.sweep.coast) (o : FrameOutcome) :
    followCoast o .increment s = enterDraining (coastCause o) s := by
  rcases h with h | h <;> simp [followCoast, h, hc]

theorem followCoast_clear (h : s.sweep.state = .tracking ∨ s.sweep.state = .coasting) (o : FrameOutcome) :
    followCoast o .clear s = if s.sweep.state = .coasting then changeSweep .tracking s.sweep.cause s else s := by
  rcases h with h | h <;> simp [followCoast, h]

/-- In ARMED only SEED moves the state, and SEED does not keep the counter. -/
theorem followCoast_keep (ho : o ≠ .seed) (s : State) : followCoast o .keep s = s := by
  cases h : s.sweep.state with
  | armed => rw [followCoast_armed h, if_neg ho]
  | idle | tracking | coasting | draining | ended => simp [followCoast, h]

theorem followCoast_outside (h : s.sweep.state = .idle ∨ s.sweep.state = .draining ∨ s.sweep.state = .ended)
    (o : FrameOutcome) (e : CoastEffect) : followCoast o e s = s := by
  rcases h with h | h | h <;> simp [followCoast, h]

/-! ### A decided outcome, by its effect on the counter -/

theorem decideOutcome_eq (r : OutcomeRecord) (s : State) :
    decideOutcome r s = followCoast r.outcome (coastEffect r.outcome s.sweep.state)
      (countOutcome r (coastAfter (coastEffect r.outcome s.sweep.state) s.sweep.coast s.sweep.params.coastLimit) s) := by
  rw [← recordOutcome_with_coast]; rfl

theorem decideOutcome_armed (h : s.sweep.state = .armed) (he : coastEffect r.outcome s.sweep.state = e) :
    let u := countOutcome r (coastAfter e s.sweep.coast s.sweep.params.coastLimit) s
    decideOutcome r s = if r.outcome = .seed then changeSweep .tracking .none u else u := by
  intro u
  rw [decideOutcome_eq, he]
  exact followCoast_armed (s := u) h r.outcome e

theorem decideOutcome_increment_below (h : s.sweep.state = .tracking ∨ s.sweep.state = .coasting)
    (he : coastEffect r.outcome s.sweep.state = .increment) (hc : s.sweep.coast + 1 < s.sweep.params.coastLimit) :
    decideOutcome r s = if s.sweep.state = .tracking then
      changeSweep .coasting s.sweep.cause (countOutcome r (s.sweep.coast + 1) s) else countOutcome r (s.sweep.coast + 1) s := by
  have hn : coastAfter .increment s.sweep.coast s.sweep.params.coastLimit = s.sweep.coast + 1 := Nat.min_eq_right hc.le
  rw [decideOutcome_eq, he, hn]
  exact followCoast_increment_below (s := countOutcome r (s.sweep.coast + 1) s) h hc r.outcome

theorem decideOutcome_increment_at_limit (h : s.sweep.state = .tracking ∨ s.sweep.state = .coasting)
    (he : coastEffect r.outcome s.sweep.state = .increment) (hc : s.sweep.params.coastLimit ≤ s.sweep.coast + 1) :
    decideOutcome r s = enterDraining (coastCause r.outcome) (countOutcome r s.sweep.params.coastLimit s) := by
  have hn : coastAfter .increment s.sweep.coast s.sweep.params.coastLimit = s.sweep.params.coastLimit := Nat.min_eq_left hc
  rw [decideOutcome_eq, he, hn]
  exact followCoast_increment_at_limit (s := countOutcome r s.sweep.params.coastLimit s) h (Nat.le_refl _) r.outcome

theorem decideOutcome_clear (h : s.sweep.state = .tracking ∨ s.sweep.state = .coasting)
    (he : coastEffect r.outcome s.sweep.state = .clear) :
    decideOutcome r s = if s.sweep.state = .coasting then
      changeSweep .tracking s.sweep.cause (countOutcome r 0 s) else countOutcome r 0 s := by
  rw [decideOutcome_eq, he]
  exact followCoast_clear (s := countOutcome r 0 s) h r.outcome

/-- An outcome that keeps the counter moves no state: it is not SEED. -/
theorem decideOutcome_keep (he : coastEffect r.outcome s.sweep.state = .keep) :
    decideOutcome r s = countOutcome r s.sweep.coast s := by
  have hseed : r.outcome ≠ .seed := fun ho => by simp [ho, coastEffect] at he
  rw [decideOutcome_eq, he]
  exact followCoast_keep hseed _

theorem decideOutcome_outside (h : s.sweep.state = .idle ∨ s.sweep.state = .draining ∨ s.sweep.state = .ended)
    (he : coastEffect r.outcome s.sweep.state = e) :
    decideOutcome r s = countOutcome r (coastAfter e s.sweep.coast s.sweep.params.coastLimit) s := by
  rw [decideOutcome_eq, he]
  exact followCoast_outside (s := countOutcome r (coastAfter e s.sweep.coast s.sweep.params.coastLimit) s) h r.outcome e

/-! ### Where the sweep then stands -/

theorem enterDraining_sweep_cases (c : EndCause) (s : State) :
    ((enterDraining c s).sweep.state = .draining ∨ (enterDraining c s).sweep.state = .ended) ∧
      (enterDraining c s).sweep.coast = s.sweep.coast ∧ (enterDraining c s).sweep.cause = c := by
  rcases enterDraining_sweep c s with h | h <;> simp [h]

theorem coastAgrees_enterDraining (c : EndCause) (h : s.sweep.coast ≤ s.sweep.params.coastLimit)
    (hl : 1 ≤ s.sweep.params.coastLimit) : (enterDraining c s).sweep.coastAgrees := by
  rcases enterDraining_sweep c s with hw | hw <;> simp [Sweep.coastAgrees, hw, h, hl]

theorem coastAgrees_changeSweep_tracking (c : EndCause) (h : s.sweep.coast = 0) (hl : 1 ≤ s.sweep.params.coastLimit) :
    (changeSweep .tracking c s).sweep.coastAgrees := by
  simp [Sweep.coastAgrees, h, hl]

theorem coastAgrees_decideOutcome_outside (r : OutcomeRecord) (h : s.sweep.coastAgrees)
    (hs : s.sweep.state = .idle ∨ s.sweep.state = .draining ∨ s.sweep.state = .ended) :
    (decideOutcome r s).sweep.coastAgrees := by
  obtain ⟨hle, -, -, hlim⟩ := h
  rw [decideOutcome_outside hs rfl]
  refine ⟨coastAfter_le hle _, ?_, ?_, hlim⟩ <;> rcases hs with hs | hs | hs <;> simp [hs]

theorem coastAgrees_decideOutcome_armed (r : OutcomeRecord) (h : s.sweep.coastAgrees) (hs : s.sweep.state = .armed) :
    (decideOutcome r s).sweep.coastAgrees := by
  obtain ⟨hle, -, -, hlim⟩ := h
  rw [decideOutcome_armed hs rfl]
  split
  · rename_i ho
    exact coastAgrees_changeSweep_tracking _ (by simp [ho, coastEffect, coastAfter]) (hlim (by simp [hs]) (by simp [hs]))
  · exact ⟨coastAfter_le hle _, by simp [hs], by simp [hs], hlim⟩

theorem coastAgrees_decideOutcome_running (r : OutcomeRecord) (h : s.sweep.coastAgrees)
    (hs : s.sweep.state = .tracking ∨ s.sweep.state = .coasting) : (decideOutcome r s).sweep.coastAgrees := by
  have ⟨_, _, _, hlim⟩ := h
  have hl : 1 ≤ s.sweep.params.coastLimit := by rcases hs with hs | hs <;> exact hlim (by simp [hs]) (by simp [hs])
  cases he : coastEffect r.outcome s.sweep.state with
  | increment =>
    by_cases hc : s.sweep.coast + 1 < s.sweep.params.coastLimit
    · rw [decideOutcome_increment_below hs he hc]
      rcases hs with hs | hs <;> simp [Sweep.coastAgrees, hs, hc, hc.le, hl]
    · rw [decideOutcome_increment_at_limit hs he (Nat.le_of_not_lt hc)]
      exact coastAgrees_enterDraining _ (Nat.le_refl _) hl
  | clear =>
    rw [decideOutcome_clear hs he]
    rcases hs with hs | hs <;> simp [Sweep.coastAgrees, hs, hl]
  | keep => rw [decideOutcome_keep he]; exact h

/-- R30: the counter goes on agreeing with the sweep state over every decided outcome. -/
theorem coastAgrees_decideOutcome (r : OutcomeRecord) (h : s.sweep.coastAgrees) :
    (decideOutcome r s).sweep.coastAgrees := by
  cases hs : s.sweep.state with
  | armed => exact coastAgrees_decideOutcome_armed r h hs
  | tracking => exact coastAgrees_decideOutcome_running r h (.inl hs)
  | coasting => exact coastAgrees_decideOutcome_running r h (.inr hs)
  | idle => exact coastAgrees_decideOutcome_outside r h (.inl hs)
  | draining => exact coastAgrees_decideOutcome_outside r h (.inr (.inl hs))
  | ended => exact coastAgrees_decideOutcome_outside r h (.inr (.inr hs))

/-! ### The obligation -/

/-- Settles O46: each outcome's effect on the counter (R30's table) selects the equation of `decideOutcome`, and the sweep state,
counter and cause are read off that equation. -/
theorem outcomesDriveTheCoastCounter : Obligations.OutcomesDriveTheCoastCounter := by
  intro r s hagrees t limit cause misses good counted
  refine ⟨coastAgrees_decideOutcome r hagrees, fun hs => ?_, fun hs => ⟨fun ho => ?_, fun ho => ?_⟩, fun hs => ?_⟩
  · have hbelow (ho : misses) := decideOutcome_increment_below hs (coastEffect_of_miss hs ho)
    have hlimit (ho : misses) (hc : limit ≤ s.sweep.coast + 1) : t = enterDraining cause (counted limit) := by
      rw [show cause = coastCause r.outcome from (coastCause_eq r.outcome).symm]
      exact decideOutcome_increment_at_limit hs (coastEffect_of_miss hs ho) hc
    have hclear (ho : r.outcome = .composited ∨ r.outcome = .slow) :=
      decideOutcome_clear hs (coastEffect_of_composited_or_slow s.sweep.state ho)
    have hkeep (ho : r.outcome = .notCaptured ∨ r.outcome = .geometry ∨ r.outcome = .discarded) :=
      decideOutcome_keep (coastEffect_of_notCaptured_geometry_discarded s.sweep.state ho)
    refine ⟨hbelow, hlimit, hclear, hkeep, fun ho hc => ?_, fun ho hc => ?_, fun ho => ?_, fun ho => ?_⟩
    · rw [show t = _ from hbelow ho hc]
      rcases hs with hs | hs <;> simp [hs]
    · rw [hlimit ho hc]
      exact enterDraining_sweep_cases cause (counted limit)
    · rw [show t = _ from hclear ho]
      rcases hs with hs | hs <;> simp [hs]
    · rw [show t = _ from hkeep ho]
      exact ⟨rfl, rfl, rfl⟩
  · refine decideOutcome_keep ?_
    rcases ho with ho | ho
    · simp [ho, hs, coastEffect]
    · exact coastEffect_of_notCaptured_geometry_discarded s.sweep.state ho
  · have he : coastEffect r.outcome s.sweep.state = .clear := by rw [ho]; rfl
    exact (decideOutcome_armed hs he).trans (if_pos ho)
  · rw [show t = _ from decideOutcome_outside (.inr (.inl hs)) rfl, countOutcome_sweep_coast]
    refine ⟨hs, rfl, fun ho hd => ?_, fun ho => ?_, fun ho => ?_⟩
    · rw [coastEffect_of_miss_ne_damaged _ ho hd]; rfl
    · rw [coastEffect_of_composited_or_slow _ ho]; rfl
    · rw [coastEffect_of_notCaptured_geometry_discarded _ ho]; rfl

end Sys2Proof.Proofs
end

section
/-! PROOF. O11 (R50, R52, R54): the line with the next expected number is stored as its row and counted when repaired. -/

namespace Sys2Proof.Proofs

open Sys2Proof.Machine

/-! ### What the capture unit does with the expected line -/

@[simp] theorem offerForward_counters_linesRepaired (p : Packet) (s : State) :
    (offerForward p s).counters.linesRepaired = s.counters.linesRepaired := by
  unfold offerForward; split <;> rfl

/-- The model's test of R52 is the statement's. -/
theorem lineNeedsRepair_eq_needsRepair (w : Nat) (body : List Byte) : lineNeedsRepair w body = needsRepair w body := by
  simp [lineNeedsRepair, needsRepair]

/-- R50: the expected line leaves no gap, so nothing is made up and the frame is not damaged. -/
theorem captureLine_of_expected {f : CapturedFrame} {body : List Byte} (hn : lineNumber body = f.record.nextLine)
    (hh : f.record.nextLine < f.record.h) (hm : f.record.missing ≤ 8) (i : Fin 3) (s : State) :
    captureLine i f body s = addLinesRepaired (needsRepair f.record.w body).toNat
      (setSlot i (storeLine s.sweep.params.tau s.sweep.params.direction body f) s) := by
  have htaken : ¬(f.record.h ≤ f.record.nextLine ∨ f.record.nextLine < f.record.nextLine) := by omega
  have hgap : ¬8 < f.record.missing + (f.record.nextLine - f.record.nextLine) := by omega
  rw [captureLine, hn, if_neg htaken, if_neg hgap, Nat.sub_self, Nat.zero_add, lineNeedsRepair_eq_needsRepair]
  rfl

/-! ### The obligation -/

/-- Settles O11: `captureLine_of_expected` says what is stored, and the fitted, mirrored runs are the rows the line gives. -/
theorem expectedLineIsStoredAsItsRow : Obligations.ExpectedLineIsStoredAsItsRow := by
  intro s body i f hp hc hi hf hn hh hm w repair u
  refine ⟨_, _, lumaRowOf_fitRun s.sweep.params.direction body w, chromaRowOf_fitRun s.sweep.params.direction body w, ?_⟩
  have hcapture : u.capture = s.capture := by simp [u]
  have hsweep : u.sweep = s.sweep := by simp [u]
  have hrepaired : u.counters.linesRepaired = s.counters.linesRepaired := by simp [u]
  have hcaptured : captureLinePacket body u = addLinesRepaired repair.toNat
      (setSlot i (storeLine s.sweep.params.tau s.sweep.params.direction body f) u) := by
    rw [captureLinePacket_of_filling ((fillingSlot_congr hcapture).trans hi) (by rw [hcapture, hf]),
      captureLine_of_expected hn hh hm, hsweep]
  rw [exec_linePacket_of_canComplete hp hc, hcaptured]
  simp only [addLinesRepaired, setSlot, saturate16, hcapture, hrepaired, storeLine, lineNeedsRepair_eq_needsRepair]
  rfl

end Sys2Proof.Proofs
end

section
/-! PROOF. O8 (R44, R45): a whole OPEN takes the next sequence and carries the hint chain forward, and no other command but the release
and the loss of power changes them. -/

namespace Sys2Proof.Proofs

open Sys2Proof.Machine

/-! ### What an event keeps -/

section Keeps

variable {β : Type} {g : State → β}

/-- An event keeps what its effect and the arbiter keep. -/
theorem event_keeps (ha : ∀ s, g (arbitrate s) = g s) {enabled : State → Bool} {effect : State → State} {s t : State}
    (he : g (effect s) = g s) (h : event enabled effect s = .next t) : g t = g s := by
  rcases event_cases h with ⟨-, -, rfl⟩ | rfl
  · rw [ha, he]
  · rfl

/-- A directive's take keeps what its action keeps, if it is nothing of the directive queue or the outlet. -/
theorem takeDirective_keeps (ha : ∀ s, g (arbitrate s) = g s) (hpop : ∀ s, g (popDirective s) = g s) {is : Byte → Bool}
    {act : List Byte → State → State} (hact : ∀ body s, g (act body s) = g s) {s t : State}
    (h : takeDirective is act s = .next t) : g t = g s :=
  event_keeps ha (effect := fun s => act (headBody s) (popDirective s)) ((hact _ _).trans (hpop s)) h

theorem withParams_keeps (hr : ∀ body r ws s, g (replyTo body r ws s) = g s) {n : Nat} {act : List Nat → State → State}
    (hact : ∀ ps s, g (act ps s) = g s) (body : List Byte) (s : State) : g (withParams n body act s) = g s := by
  unfold withParams
  split
  · exact hr ..
  · split
    · exact hact ..
    · exact hr ..

theorem profileChecks_keeps (hr : ∀ body r ws s, g (replyTo body r ws s) = g s) {n : Nat} {service unprotected : Bool}
    {act : List Nat → State → State} (hact : ∀ ps s, g (act ps s) = g s) (body : List Byte) (s : State) :
    g (profileChecks n service unprotected body act s) = g s := by
  refine withParams_keeps hr (fun ps s => ?_) body s
  split
  · exact hr ..
  · split
    · exact hr ..
    · split
      · exact hr ..
      · exact hact ..

theorem withSlot_keeps (hr : ∀ body r ws s, g (replyTo body r ws s) = g s) {act : Fin 4 → State → State}
    (hact : ∀ i s, g (act i s) = g s) (body : List Byte) (ps : List Nat) (s : State) :
    g (withSlot body ps act s) = g s := by
  unfold withSlot
  split
  · exact hact ..
  · exact hr ..

end Keeps

/-! ### The commands that leave the capture unit as it is -/

@[simp] theorem huntStep_capture (bytes : List Byte) (s : State) : (huntStep bytes s).capture = s.capture := by
  unfold huntStep; split <;> rfl

@[simp] theorem completeTilePacket_capture (s : State) : (completeTilePacket s).capture = s.capture := by
  unfold completeTilePacket
  split
  · rfl
  · split
    · simp [completeTileEnd]
    · rfl

@[simp] theorem completePacket_capture (p : Sending) (s : State) : (completePacket p s).capture = s.capture := by
  unfold completePacket
  split
  · rfl
  · split <;> simp
  · simp

@[simp] theorem outletComplete_capture (s : State) : (outletComplete s).capture = s.capture := by
  unfold outletComplete; split <;> simp

@[simp] theorem takeRun_capture (s : State) : (takeRun s).capture = s.capture := by
  unfold takeRun
  split
  · rfl
  · dsimp only; split <;> simp

theorem execDir_capture {body : List Byte} {s t : State} (h : execDir body s = .next t) : t.capture = s.capture := by
  unfold execDir at h
  exact event_keeps arbitrate_capture (by simp) h

theorem execTileRunTake_capture {s t : State} (h : execTileRunTake s = .next t) : t.capture = s.capture := by
  rcases execTileRunTake_cases h with rfl | ⟨-, -, rfl | ⟨-, -, -, rfl⟩⟩ <;> simp

theorem doStatus_capture (body : List Byte) (s : State) : (doStatus body s).capture = s.capture :=
  withParams_keeps replyTo_capture (fun _ _ => replyTo_capture ..) body s

theorem doEventMask_capture (body : List Byte) (s : State) : (doEventMask body s).capture = s.capture :=
  withParams_keeps replyTo_capture (fun ps s => by unfold setMasks; split <;> simp) body s

theorem doCounters_capture (body : List Byte) (s : State) : (doCounters body s).capture = s.capture :=
  withParams_keeps replyTo_capture (fun ps s => by unfold readCounters; split <;> simp) body s

theorem doUnknown_capture (body : List Byte) (s : State) : (doUnknown body s).capture = s.capture := replyTo_capture ..

theorem checkArm_capture (body : List Byte) (ps : List Nat) (s : State) : (checkArm body ps s).capture = s.capture := by
  unfold checkArm
  split
  · simp
  · split
    · simp
    · split <;> simp [armSweep]

theorem doSweepArm_capture (body : List Byte) (s : State) : (doSweepArm body s).capture = s.capture :=
  withParams_keeps replyTo_capture (checkArm_capture body) body s

theorem doSweepRelease_capture (body : List Byte) (s : State) : (doSweepRelease body s).capture = s.capture :=
  withParams_keeps replyTo_capture (fun _ s => by split <;> simp [sweepDone, releaseSweep]) body s

theorem doGrant_capture (body : List Byte) (s : State) : (doGrant body s).capture = s.capture :=
  withParams_keeps replyTo_capture (fun _ s => by simp [grantCredits]) body s

/-! TABLE_PAGE. -/

@[simp] theorem closeAssembly_capture (body : List Byte) (a : Assembly) (s : State) :
    (closeAssembly body a s).capture = s.capture := by
  unfold closeAssembly
  split
  · simp
  · split <;> simp

@[simp] theorem appendPage_capture (body : List Byte) (p : Page) (a : Assembly) (s : State) :
    (appendPage body p a s).capture = s.capture := by
  unfold appendPage
  split
  · simp
  · dsimp only; split <;> simp

@[simp] theorem firstPage_capture (body : List Byte) (p : Page) (s : State) :
    (firstPage body p s).capture = s.capture := by
  unfold firstPage; split <;> simp

@[simp] theorem laterPage_capture (body : List Byte) (p : Page) (s : State) :
    (laterPage body p s).capture = s.capture := by
  unfold laterPage
  split
  · simp
  · split
    · simp
    · split <;> simp

@[simp] theorem checkPage_capture (body : List Byte) (ps : List Nat) (s : State) :
    (checkPage body ps s).capture = s.capture := by
  unfold checkPage
  dsimp only
  repeat' split
  all_goals simp

theorem doTablePage_capture (body : List Byte) (s : State) : (doTablePage body s).capture = s.capture := by
  unfold doTablePage
  split <;> simp

/-! The profile store. -/

theorem doProfileRecall_capture (body : List Byte) (s : State) : (doProfileRecall body s).capture = s.capture := by
  refine profileChecks_keeps replyTo_capture (fun ps s => withSlot_keeps replyTo_capture (fun i s => ?_) body ps s) body s
  unfold recallSlot
  repeat' split
  all_goals simp

theorem doProfileErase_capture (body : List Byte) (s : State) : (doProfileErase body s).capture = s.capture := by
  refine profileChecks_keeps replyTo_capture (fun ps s => withSlot_keeps replyTo_capture (fun i s => ?_) body ps s) body s
  unfold eraseSlot
  dsimp only
  split <;> simp

theorem doProfileWrite_capture (body : List Byte) (s : State) : (doProfileWrite body s).capture = s.capture := by
  refine profileChecks_keeps replyTo_capture (fun ps s => withSlot_keeps replyTo_capture (fun i s => ?_) body ps s) body s
  unfold writeSlot
  split
  · simp
  · split <;> simp

theorem doProfileVerify_capture (body : List Byte) (s : State) : (doProfileVerify body s).capture = s.capture := by
  refine profileChecks_keeps replyTo_capture (fun ps s => withSlot_keeps replyTo_capture (fun i s => ?_) body ps s) body s
  unfold verifySlot
  split <;> simp

theorem doProfileBlankCheck_capture (body : List Byte) (s : State) : (doProfileBlankCheck body s).capture = s.capture :=
  profileChecks_keeps replyTo_capture
    (fun ps s => withSlot_keeps replyTo_capture (fun i s => beginOperation_capture body i .blankCheck s) body ps s) body s

theorem doProfileProtect_capture (body : List Byte) (s : State) : (doProfileProtect body s).capture = s.capture :=
  profileChecks_keeps replyTo_capture (fun _ s => by simp) body s

theorem doProfileEraseAll_capture (body : List Byte) (s : State) : (doProfileEraseAll body s).capture = s.capture :=
  profileChecks_keeps replyTo_capture (fun _ s => by simp [beginEraseAll]) body s

theorem doProfileDefault_capture (body : List Byte) (s : State) : (doProfileDefault body s).capture = s.capture := by
  refine profileChecks_keeps replyTo_capture (fun ps s => ?_) body s
  unfold setDefault
  split
  · simp
  · split <;> simp

theorem doProfileInfo_capture (body : List Byte) (s : State) : (doProfileInfo body s).capture = s.capture :=
  profileChecks_keeps replyTo_capture (fun _ _ => replyTo_capture ..) body s

theorem completeVerify_capture (s : State) : (completeVerify s).capture = s.capture := by
  unfold completeVerify; dsimp only; split <;> simp

theorem completeBlankCheck_capture (s : State) : (completeBlankCheck s).capture = s.capture := by
  unfold completeBlankCheck; dsimp only; split <;> simp

theorem endStage_capture (s : State) : (endStage s).capture = s.capture := by
  unfold endStage; dsimp only; split <;> simp [completeEraseAll]

/-- The commands that count, store, free or hand on a frame of the capture unit, or reset it. -/
def touchesCapture : Instr → Bool
  | .resetRelease _ | .powerLoss | .syncLoss _ | .openPacket _ | .linePacket _ | .shutPacket _ | .resetEngine | .sweepEnd
  | .sweepAbort | .registrationTake | .registrationComplete | .placement | .compositeComplete => true
  | _ => false

/-- Every other command leaves the capture unit as it is. -/
theorem exec_capture_of_not_touchesCapture {c : Instr} {s t : State} (h : exec c s = .next t)
    (hc : touchesCapture c = false) : t.capture = s.capture := by
  have directive {is : Byte → Bool} {act : List Byte → State → State} (h : takeDirective is act s = .next t)
      (hact : ∀ body s, (act body s).capture = s.capture) : t.capture = s.capture :=
    takeDirective_keeps arbitrate_capture popDirective_capture hact h
  have running {enabled : State → Bool} {effect : State → State} (h : event enabled effect s = .next t)
      (he : (effect s).capture = s.capture) : t.capture = s.capture := event_keeps arbitrate_capture he h
  cases c with
  | resetRelease | powerLoss | syncLoss | openPacket | linePacket | shutPacket | resetEngine | sweepEnd | sweepAbort
  | registrationTake | registrationComplete | placement | compositeComplete => cases hc
  | pinReset => cases h; rfl
  | outletHold asserted => cases h; exact arbitrate_capture _
  | huntLock bytes => exact running h (huntStep_capture bytes s)
  | dirPacket body => exact execDir_capture h
  | outletPacketComplete => exact running h (outletComplete_capture s)
  | tileendComplete => exact running h (outletComplete_capture s)
  | tileRunTake => exact execTileRunTake_capture h
  | compositeTake => exact running h (takeComposite_capture s)
  | status => exact directive h doStatus_capture
  | eventMask => exact directive h doEventMask_capture
  | counters => exact directive h doCounters_capture
  | unknownDirective => exact directive h doUnknown_capture
  | sweepArm => exact directive h doSweepArm_capture
  | sweepRelease => exact directive h doSweepRelease_capture
  | grant => exact directive h doGrant_capture
  | tablePage => exact directive h doTablePage_capture
  | profileRecall => exact directive h doProfileRecall_capture
  | profileErase => exact directive h doProfileErase_capture
  | profileWrite => exact directive h doProfileWrite_capture
  | profileVerify => exact directive h doProfileVerify_capture
  | profileBlankCheck => exact directive h doProfileBlankCheck_capture
  | profileProtect => exact directive h doProfileProtect_capture
  | profileEraseAll => exact directive h doProfileEraseAll_capture
  | profileDefault => exact directive h doProfileDefault_capture
  | profileInfo => exact directive h doProfileInfo_capture
  | profileEraseComplete => exact running h (storeReply_capture ..)
  | profileWriteComplete => exact running h (storeReply_capture ..)
  | profileVerifyComplete => exact running h (completeVerify_capture s)
  | profileBlankCheckComplete => exact running h (completeBlankCheck_capture s)
  | eraseAllStageEnd => exact running h (endStage_capture s)

/-! ### The sequence and the hint chain -/

/-- The sequence, the hint sums and the broken-chain count: what R44 and R45 have an OPEN carry forward. -/
def hintChain (s : State) : Half × Word × Word × Word :=
  (s.capture.seq, s.capture.sumX, s.capture.sumY, s.capture.broken)

theorem hintChain_eq_iff (s t : State) : hintChain t = hintChain s ↔
    t.capture.seq = s.capture.seq ∧ t.capture.sumX = s.capture.sumX ∧ t.capture.sumY = s.capture.sumY ∧
      t.capture.broken = s.capture.broken := by
  simp [hintChain]

theorem hintChain_of_capture_eq {s t : State} (h : t.capture = s.capture) : hintChain t = hintChain s := by
  rw [hintChain, h, hintChain]

@[simp] theorem hintChain_arbitrate (s : State) : hintChain (arbitrate s) = hintChain s :=
  hintChain_of_capture_eq (arbitrate_capture s)
@[simp] theorem hintChain_popDirective (s : State) : hintChain (popDirective s) = hintChain s :=
  hintChain_of_capture_eq (popDirective_capture s)
@[simp] theorem hintChain_replyTo (body : List Byte) (r : ResultCode) (ws : List Word) (s : State) :
    hintChain (replyTo body r ws s) = hintChain s :=
  hintChain_of_capture_eq (replyTo_capture ..)

/-! What the capture unit does with its frames leaves them. -/

@[simp] theorem hintChain_damageFilling (s : State) : hintChain (damageFilling s) = hintChain s := by
  simp [hintChain]

@[simp] theorem hintChain_captureOpen (f : OpenFields) (s : State) : hintChain (captureOpen f s) = hintChain s := by
  unfold captureOpen
  repeat' split
  all_goals simp [hintChain]

@[simp] theorem hintChain_captureLine (i : Fin 3) (f : CapturedFrame) (body : List Byte) (s : State) :
    hintChain (captureLine i f body s) = hintChain s := by
  unfold captureLine
  dsimp only
  repeat' split
  all_goals simp [hintChain]

@[simp] theorem hintChain_captureLinePacket (body : List Byte) (s : State) :
    hintChain (captureLinePacket body s) = hintChain s := by
  unfold captureLinePacket
  repeat' split
  all_goals simp

@[simp] theorem hintChain_captureShut (i : Fin 3) (f : CapturedFrame) (s : State) :
    hintChain (captureShut i f s) = hintChain s := by
  unfold captureShut
  dsimp only
  split <;> simp [hintChain]

@[simp] theorem hintChain_captureShutPacket (s : State) : hintChain (captureShutPacket s) = hintChain s := by
  unfold captureShutPacket
  repeat' split
  all_goals simp

@[simp] theorem hintChain_testNextHeader (header : List Byte) (s : State) :
    hintChain (testNextHeader header s) = hintChain s := by
  unfold testNextHeader
  split
  · rfl
  · simp [hintChain, loseSync]

@[simp] theorem hintChain_offerForward_receivePacket (p : Packet) (body : List Byte) (s : State) :
    hintChain (offerForward p (receivePacket body s)) = hintChain s :=
  hintChain_of_capture_eq (by simp)

theorem hintChain_execSyncLoss {header : List Byte} {s t : State} (h : execSyncLoss header s = .next t) :
    hintChain t = hintChain s := by
  unfold execSyncLoss at h
  exact event_keeps hintChain_arbitrate (by simp) h

theorem hintChain_execLine {body : List Byte} {s t : State} (h : execLine body s = .next t) :
    hintChain t = hintChain s := by
  unfold execLine at h
  exact event_keeps hintChain_arbitrate (by simp) h

theorem hintChain_execShut {body : List Byte} {s t : State} (h : execShut body s = .next t) :
    hintChain t = hintChain s := by
  unfold execShut at h
  exact event_keeps hintChain_arbitrate (by simp) h

/-! The directives that free slots. -/

theorem hintChain_doSweepEnd (body : List Byte) (s : State) : hintChain (doSweepEnd body s) = hintChain s := by
  refine withParams_keeps hintChain_replyTo (fun _ s => ?_) body s
  unfold endSweep sweepDone
  split <;> simp [hintChain]

theorem hintChain_abortSlot (s : State) (i : Fin 3) : hintChain (abortSlot s i) = hintChain s := by
  unfold abortSlot; split <;> simp [hintChain]

theorem hintChain_abortSweep (s : State) : hintChain (abortSweep s) = hintChain s := by
  refine (hintChain_of_capture_eq ?_).trans (foldl_keeps abortSlot hintChain hintChain_abortSlot s.capture.order s)
  simp [abortSweep]

theorem hintChain_doSweepAbort (body : List Byte) (s : State) : hintChain (doSweepAbort body s) = hintChain s := by
  refine withParams_keeps hintChain_replyTo (fun _ s => ?_) body s
  split
  · rw [sweepDone, hintChain_replyTo, hintChain_abortSweep]
  · rw [hintChain_replyTo]

/-- R176: RESET_ENGINE empties the slots and keeps the capture unit's counters. -/
theorem hintChain_doResetEngine (body : List Byte) (s : State) : hintChain (doResetEngine body s) = hintChain s :=
  withParams_keeps hintChain_replyTo (fun _ s => by simp [hintChain, resetUnits, resetBlocks]) body s

/-! Registration, placement and the compositor change slots only. -/

@[simp] theorem hintChain_takeSeed (i : Fin 3) (f : CapturedFrame) (s : State) : hintChain (takeSeed i f s) = hintChain s := by
  simp [hintChain, takeSeed, placeFrame]

@[simp] theorem hintChain_takeToRegister (i : Fin 3) (f : CapturedFrame) (s : State) :
    hintChain (takeToRegister i f s) = hintChain s := rfl

@[simp] theorem hintChain_takeFrame (s : State) : hintChain (takeFrame s) = hintChain s := by
  unfold takeFrame
  split
  · rfl
  · split
    · rfl
    · split <;> simp

@[simp] theorem hintChain_endRegistration (i : Fin 3) (votes : List Nat) (r : OutcomeRecord) (s : State) :
    hintChain (endRegistration i votes r s) = hintChain s := by
  simp [hintChain, endRegistration]

@[simp] theorem hintChain_testDrain (s : State) : hintChain (testDrain s) = hintChain s :=
  hintChain_of_capture_eq (testDrain_capture s)

@[simp] theorem hintChain_handToPlacement (i : Fin 3) (f : CapturedFrame) (m : MatchResult) (o : Point) (s : State) :
    hintChain (handToPlacement i f m o s) = hintChain s := rfl

@[simp] theorem hintChain_completeRegistration (i : Fin 3) (f : CapturedFrame) (s : State) :
    hintChain (completeRegistration i f s) = hintChain s := by
  unfold completeRegistration
  dsimp only
  split
  · split <;> simp
  · simp

@[simp] theorem hintChain_registrationEnd (s : State) : hintChain (registrationEnd s) = hintChain s := by
  unfold registrationEnd; split <;> simp

@[simp] theorem hintChain_refuseFrame (o : FrameOutcome) (i : Fin 3) (f : CapturedFrame) (h : Handover) (s : State) :
    hintChain (refuseFrame o i f h s) = hintChain s := by
  simp [hintChain, refuseFrame]

@[simp] theorem hintChain_compositeFrame (i : Fin 3) (f : CapturedFrame) (h : Handover) (band : Nat) (eNew : Int)
    (s : State) : hintChain (compositeFrame i f h band eNew s) = hintChain s := by
  simp [hintChain, compositeFrame, placeFrame]

@[simp] theorem hintChain_placeHandover (i : Fin 3) (f : CapturedFrame) (h : Handover) (s : State) :
    hintChain (placeHandover i f h s) = hintChain s := by
  unfold placeHandover
  dsimp only
  split
  · simp
  · split
    · simp
    · split <;> simp

@[simp] theorem hintChain_placementEvent (s : State) : hintChain (placementEvent s) = hintChain s := by
  unfold placementEvent; split <;> simp

@[simp] theorem paintEntry_capture (en : CompositeEntry) (s : State) : (paintEntry en s).capture = s.capture := by
  unfold paintEntry; split <;> rfl

@[simp] theorem hintChain_completeComposite (s : State) : hintChain (completeComposite s) = hintChain s := by
  unfold completeComposite
  split
  · rfl
  · simp [hintChain]

/-- R44, R45: but for the release and the loss of power, only an OPEN changes the sequence or the hint chain. -/
theorem exec_hintChain {c : Instr} {s t : State} (h : exec c s = .next t) (hr : ∀ high, c ≠ .resetRelease high)
    (hl : c ≠ .powerLoss) (ho : ∀ body, c ≠ .openPacket body) : hintChain t = hintChain s := by
  have directive {is : Byte → Bool} {act : List Byte → State → State} (h : takeDirective is act s = .next t)
      (hact : ∀ body s, hintChain (act body s) = hintChain s) : hintChain t = hintChain s :=
    takeDirective_keeps hintChain_arbitrate hintChain_popDirective hact h
  have running {enabled : State → Bool} {effect : State → State} (h : event enabled effect s = .next t)
      (he : hintChain (effect s) = hintChain s) : hintChain t = hintChain s := event_keeps hintChain_arbitrate he h
  cases hc : touchesCapture c with
  | false => exact hintChain_of_capture_eq (exec_capture_of_not_touchesCapture h hc)
  | true =>
    cases c with
    | resetRelease high => exact absurd rfl (hr high)
    | powerLoss => exact absurd rfl hl
    | openPacket body => exact absurd rfl (ho body)
    | syncLoss header => exact hintChain_execSyncLoss h
    | linePacket body => exact hintChain_execLine h
    | shutPacket body => exact hintChain_execShut h
    | resetEngine => exact directive h hintChain_doResetEngine
    | sweepEnd => exact directive h hintChain_doSweepEnd
    | sweepAbort => exact directive h hintChain_doSweepAbort
    | registrationTake => exact running h (hintChain_takeFrame s)
    | registrationComplete => exact running h (hintChain_registrationEnd s)
    | placement => exact running h (hintChain_placementEvent s)
    | compositeComplete => exact running h (hintChain_completeComposite s)
    | _ => cases hc

/-! ### A whole OPEN -/

/-! OPENS_SEEN: no outcome that an OPEN decides, and no offer of its packet, counts there. -/

@[simp] theorem recordOutcome_counters_opensSeen (r : OutcomeRecord) (s : State) :
    (recordOutcome r s).counters.opensSeen = s.counters.opensSeen := by
  unfold recordOutcome; dsimp only; split <;> rfl

@[simp] theorem discardCaptured_counters_opensSeen (s : State) :
    (discardCaptured s).counters.opensSeen = s.counters.opensSeen :=
  foldl_keeps discardSlot (·.counters.opensSeen) (fun s i => by unfold discardSlot; split <;> simp) _ s

@[simp] theorem enterDraining_counters_opensSeen (c : EndCause) (s : State) :
    (enterDraining c s).counters.opensSeen = s.counters.opensSeen := by
  simp [enterDraining]

@[simp] theorem followCoast_counters_opensSeen (o : FrameOutcome) (e : CoastEffect) (s : State) :
    (followCoast o e s).counters.opensSeen = s.counters.opensSeen := by
  unfold followCoast
  repeat' split
  all_goals simp

@[simp] theorem damageFilling_counters_opensSeen (s : State) :
    (damageFilling s).counters.opensSeen = s.counters.opensSeen := by
  unfold damageFilling damageFrame
  repeat' split
  all_goals simp [decideOutcome]

@[simp] theorem captureOpen_counters_opensSeen (f : OpenFields) (s : State) :
    (captureOpen f s).counters.opensSeen = s.counters.opensSeen := by
  unfold captureOpen geometryOutcome
  dsimp only
  repeat' split
  all_goals simp

@[simp] theorem offerForward_counters_opensSeen (p : Packet) (s : State) :
    (offerForward p s).counters.opensSeen = s.counters.opensSeen := by
  unfold offerForward; split <;> rfl

/-- R48: what the sweep state decides comes after the count of step 1, and leaves it. -/
theorem captureOpenPacket_keeps_countOpen (body : List Byte) (s : State) :
    hintChain (captureOpenPacket body s) = hintChain (countOpen (readOpen body) s) ∧
      (captureOpenPacket body s).counters.opensSeen = (countOpen (readOpen body) s).counters.opensSeen := by
  unfold captureOpenPacket
  dsimp only
  split
  · simp
  · exact ⟨rfl, rfl⟩

theorem countOpen_of_hinted {f : OpenFields} (h : f.hinted = true) (s : State) :
    (countOpen f s).capture.sumX = s.capture.sumX + f.dx ∧ (countOpen f s).capture.sumY = s.capture.sumY + f.dy ∧
      (countOpen f s).capture.broken = s.capture.broken := by
  simp [countOpen, h]

theorem countOpen_of_not_hinted {f : OpenFields} (h : f.hinted = false) (s : State) :
    (countOpen f s).capture.sumX = s.capture.sumX ∧ (countOpen f s).capture.sumY = s.capture.sumY ∧
      (countOpen f s).capture.broken = s.capture.broken + 1 := by
  simp [countOpen, h]

theorem exec_openPacket (body : List Byte) (s : State) : exec (.openPacket body) s = execOpen body s := rfl

/-- A whole OPEN, in every sweep state, leaves the counts of R44 and R45. -/
theorem exec_openPacket_of_canComplete {s : State} {body : List Byte} (hp : s.power = .running)
    (hc : canComplete .openKind body s = true) : ∃ t, exec (.openPacket body) s = .next t ∧
      hintChain t = hintChain (countOpen (readOpen body) s) ∧
      t.counters.opensSeen = (countOpen (readOpen body) s).counters.opensSeen := by
  obtain ⟨hchain, hseen⟩ := captureOpenPacket_keeps_countOpen body (receivePacket body s)
  rw [exec_openPacket, execOpen, event_enabled hp hc]
  refine ⟨_, rfl, ?_, ?_⟩
  · rw [hintChain_arbitrate, hintChain_of_capture_eq (offerForward_capture ..), hintChain_arbitrate, hchain]
    rfl
  · rw [arbitrate_counters, offerForward_counters_opensSeen, arbitrate_counters, hseen]
    rfl

/-! ### The obligation -/

/-- Settles O8: a whole OPEN's counts are `countOpen`'s, and `exec_hintChain` is the frame over all other commands. -/
theorem openCountsAndCarriesTheHintChain : Obligations.OpenCountsAndCarriesTheHintChain := by
  refine ⟨fun s high => ⟨_, rfl, rfl, rfl, rfl, rfl⟩, fun s body hp hc => ?_, fun c s t h hr hl ho =>
    (hintChain_eq_iff s t).1 (exec_hintChain h hr hl ho)⟩
  obtain ⟨t, ht, hchain, hseen⟩ := exec_openPacket_of_canComplete hp hc
  obtain ⟨hseq, hx, hy, hbroken⟩ := (hintChain_eq_iff _ t).1 hchain
  refine ⟨t, ht, hseq, hseen, fun hinted => ?_, fun hinted => ?_⟩
  · rw [hx, hy, hbroken]
    exact countOpen_of_hinted (f := readOpen body) hinted s
  · rw [hx, hy, hbroken]
    exact countOpen_of_not_hinted (f := readOpen body) hinted s

end Sys2Proof.Proofs
end

section
/-! PROOF. O57 (R89, R90): down a canvas column the source rows rise at least as fast as the canvas rows, so the covered rows form one
unbroken run. -/

namespace Sys2Proof.Proofs

open Sys2Proof.Machine

variable {m : ColumnMap} {en : MapEntry} {o : Point} {h hc : Nat}

/-! ### The source row down a column (R89) -/

/-- A scale t of at least 4096 takes a step of d quarter pixels to one of at least d, from any start. -/
theorem scaled_add_le {t d : Int} (ht : 4096 ≤ t) (hd : 0 ≤ d) (x : Int) :
    (x * t + 2048) / 4096 + d ≤ ((x + d) * t + 2048) / 4096 := by
  have hstep : d * 4096 ≤ d * t := Int.mul_le_mul_of_nonneg_left ht hd
  have hsum : (x + d) * t = x * t + d * t := add_mul x d t
  omega

/-- R90: source rows rise at least as fast as canvas rows: four quarter pixels a row are at least four when scaled. -/
theorem sourceRow_add_le (ht : 4096 ≤ en.t) {r q : Int} (hrq : r ≤ q) :
    sourceRow m en o r + (q - r) ≤ sourceRow m en o q := by
  have hscaled := scaled_add_le (t := en.t) (d := 4 * (q - r)) (by omega) (by omega) (4 * r - o.y - 4 * m.yc)
  have hdq : 4 * r - o.y - 4 * m.yc + 4 * (q - r) = 4 * q - o.y - 4 * m.yc := by ring
  rw [hdq] at hscaled
  simp only [sourceRow]
  omega

/-- At the neutral scale the source row is the canvas row, shifted by the origin rounded to a whole pixel. -/
theorem sourceRow_of_neutral (ht : en.t = 4096) (r : Int) : sourceRow m en o r = r + (2 - o.y) / 4 := by
  simp only [sourceRow, ht]
  omega

/-! ### The run of covered rows (R90) -/

theorem rowCovered_iff (r : Int) :
    rowCovered m en o h r = true ↔ 0 ≤ sourceRow m en o r ∧ sourceRow m en o r < h :=
  decide_eq_true_iff

/-- A row between two covered rows has its source row between theirs. -/
theorem rowCovered_between (ht : 4096 ≤ en.t) {r q p : Int} (hrq : r ≤ q) (hqp : q ≤ p)
    (hr : rowCovered m en o h r = true) (hp : rowCovered m en o h p = true) : rowCovered m en o h q = true := by
  rw [rowCovered_iff] at *
  have hlow : sourceRow m en o r + (q - r) ≤ sourceRow m en o q := sourceRow_add_le ht hrq
  have hhigh : sourceRow m en o q + (p - q) ≤ sourceRow m en o p := sourceRow_add_le ht hqp
  omega

/-- The source rows of two covered rows are both in 0..H-1, and lie at least as far apart as the rows. -/
theorem sub_lt_of_rowCovered (ht : 4096 ≤ en.t) {r p : Int}
    (hr : rowCovered m en o h r = true) (hp : rowCovered m en o h p = true) : p - r < h := by
  rw [rowCovered_iff] at hr hp
  rcases le_total r p with hrp | hpr
  · have hrise : sourceRow m en o r + (p - r) ≤ sourceRow m en o p := sourceRow_add_le ht hrp
    omega
  · omega

theorem rowCovered_iff_of_neutral (ht : en.t = 4096) (r : Int) :
    rowCovered m en o h r = true ↔ -((2 - o.y) / 4) ≤ r ∧ r < -((2 - o.y) / 4) + h := by
  rw [rowCovered_iff, sourceRow_of_neutral ht]
  omega

/-! ### new_top and new_bottom -/

/-- The ends of a column's span are covered rows of the canvas, and no covered row of the canvas lies outside them. -/
theorem coveredSpan_some {span : Coverage} (hs : coveredSpan m en o h hc = some span) :
    (span.top < hc ∧ rowCovered m en o h span.top = true) ∧
      (span.bottom < hc ∧ rowCovered m en o h span.bottom = true) ∧
      ∀ r : Nat, r < hc → rowCovered m en o h r = true → span.top ≤ r ∧ r ≤ span.bottom := by
  rcases coveredSpan_spec m en o h hc with ⟨hnone, -⟩ | ⟨sp, hsome, htop, hbottom, hwithin⟩
  · rw [hnone] at hs
    cases hs
  · obtain rfl : sp = span := Option.some.inj (hsome.symm.trans hs)
    exact ⟨htop, hbottom, fun r hr hcov => hwithin r ⟨hr, hcov⟩⟩

theorem rowCovered_of_coveredSpan_none (hs : coveredSpan m en o h hc = none) {r : Nat} (hr : r < hc) :
    rowCovered m en o h r = false := by
  rcases coveredSpan_spec m en o h hc with ⟨-, hno⟩ | ⟨sp, hsome, -⟩
  · exact Bool.eq_false_of_not_eq_true fun hcov => hno r ⟨hr, hcov⟩
  · rw [hs] at hsome
    cases hsome

/-- R90: new_top and new_bottom bound exactly the covered rows of the canvas, for the run between them is unbroken. -/
theorem coveredSpan_bounds_run (ht : 4096 ≤ en.t) {span : Coverage} (hs : coveredSpan m en o h hc = some span) :
    span.top ≤ span.bottom ∧ span.bottom < hc ∧
      ∀ r : Nat, r < hc → (rowCovered m en o h r = true ↔ span.top ≤ r ∧ r ≤ span.bottom) := by
  obtain ⟨⟨htop, htopCov⟩, ⟨hbottom, hbottomCov⟩, hwithin⟩ := coveredSpan_some hs
  refine ⟨(hwithin _ htop htopCov).2, hbottom, fun r hr => ⟨hwithin r hr, fun ⟨htr, hrb⟩ => ?_⟩⟩
  exact rowCovered_between ht (Int.ofNat_le.2 htr) (Int.ofNat_le.2 hrb) htopCov hbottomCov

/-! ### The obligation -/

/-- Settles O57: all of it follows from the rise of the source rows, `sourceRow_add_le`, and from `coveredSpan_spec`. -/
theorem coveredRowsFormOneRun : Obligations.CoveredRowsFormOneRun :=
  fun _ _ o _ _ ht =>
    ⟨fun _ _ hrq => sourceRow_add_le ht hrq.le,
      fun _ _ _ hrq hqp => rowCovered_between ht hrq hqp,
      fun _ _ => sub_lt_of_rowCovered ht,
      fun hneutral => ⟨-((2 - o.y) / 4), rowCovered_iff_of_neutral hneutral⟩,
      fun _ => coveredSpan_bounds_run ht,
      fun hs _ hr => rowCovered_of_coveredSpan_none hs hr⟩

end Sys2Proof.Proofs
end

section
/-! PROOF. O59 (R109 to R116): every claim is on an anchor of the search window, so every vote falls in the grid; and the winning bin
beats every other. -/

namespace Sys2Proof.Proofs

open Sys2Proof.Machine

variable {i : MatchInputs} {st : Claims} {kps : List Keypoint} {k : Keypoint} {a : Anchor} {q : Nat} {best : Claim}

/-! ### What a claim attempt can do (R112) -/

/-- An entry of an updated list comes from the entry at its place, changed only at the index of the update. -/
theorem updateAt_getElem?_cases {α : Type} {l : List α} {n : Nat} {f : α → α} {m : Nat} {b : α}
    (h : (updateAt l n f)[m]? = some b) : ∃ x, l[m]? = some x ∧ (b = x ∨ m = n ∧ b = f x) := by
  rw [updateAt_mapIdx, List.getElem?_mapIdx, Option.map_eq_some_iff] at h
  obtain ⟨x, hx, rfl⟩ := h
  refine ⟨x, hx, ?_⟩
  split
  · exact .inr ⟨‹_›, rfl⟩
  · exact .inl rfl

/-- Candidate q and the anchor it claims name each other (R113). -/
def recordClaim (q : Nat) (best : Claim) (st : Claims) : Claims :=
  ⟨updateAt st.anchors best.index fun a => { a with claim := some ⟨q, best.distance⟩ },
    updateAt st.keypoints q fun k => { k with matched := some best }⟩

/-- Candidate n loses its match to another (R112). -/
def withdrawMatch (n : Nat) (st : Claims) : Claims :=
  { st with keypoints := updateAt st.keypoints n fun k => { k with matched := none } }

theorem attemptClaim_cases (st : Claims) (q : Nat) (best : Claim) :
    attemptClaim st q best = st ∨ attemptClaim st q best = recordClaim q best st ∨
      ∃ n, attemptClaim st q best = recordClaim q best (withdrawMatch n st) := by
  unfold attemptClaim
  dsimp only
  split
  · exact .inr (.inl rfl)
  · rename_i held _
    split
    · exact .inr (.inr ⟨held.index, rfl⟩)
    · exact .inl rfl

/-- R109 to R112: a candidate changes nothing, or attempts a claim on an eligible anchor. -/
theorem searchCandidate_cases (i : MatchInputs) (st : Claims) (k : Keypoint) :
    searchCandidate i st k = st ∨ ∃ (best : Claim) (a : Anchor), st.anchors[best.index]? = some a ∧
      eligible i k (searchPoint i k) a = true ∧ searchCandidate i st k = attemptClaim st k.index best := by
  unfold searchCandidate
  split
  · exact .inl rfl
  · rename_i best hscan
    split
    · rcases scan_spec _ _ _ _ _ _ _ hscan with h | ⟨n, a, ha, helig, hindex, -⟩
      · cases h
      · rw [Nat.zero_add] at hindex
        exact .inr ⟨best, a, hindex ▸ ha, helig, rfl⟩
    · exact .inl rfl

/-! ### Every claim is on an anchor of the window (R109, R114) -/

/-- R109's window: the anchor lies within Rx and Ry of the candidate's search point. -/
def inWindow (i : MatchInputs) (k : Keypoint) (a : Anchor) : Prop :=
  (a.ax - (searchPoint i k).x).natAbs ≤ i.params.rx ∧ (a.ay - (searchPoint i k).y).natAbs ≤ i.params.ry

theorem inWindow_of_eligible (h : eligible i k (searchPoint i k) a = true) : inWindow i k a :=
  (of_decide_eq_true h).2

/-- The window is a matter of places: matches and claims do not move it. -/
theorem inWindow_congr {k' : Keypoint} {a' : Anchor} (hkx : k'.x = k.x) (hky : k'.y = k.y) (hax : a'.ax = a.ax)
    (hay : a'.ay = a.ay) : inWindow i k' a' ↔ inWindow i k a := by
  simp only [inWindow, searchPoint, hkx, hky, hax, hay]

/-- While claims are settled the candidates keep their places, and each match is on an anchor of its candidate's window. -/
structure ClaimsInWindow (i : MatchInputs) (kps : List Keypoint) (st : Claims) : Prop where
  places : ∀ (n : Nat) (k : Keypoint), st.keypoints[n]? = some k → ∃ k₀, kps[n]? = some k₀ ∧ k.x = k₀.x ∧ k.y = k₀.y
  window : ∀ (n : Nat) (k : Keypoint) (c : Claim) (a : Anchor), st.keypoints[n]? = some k → k.matched = some c →
    st.anchors[c.index]? = some a → inWindow i k a

theorem ClaimsInWindow.of_unmatched (anchors : List Anchor) (h : ∀ k ∈ kps, k.matched = none) :
    ClaimsInWindow i kps ⟨anchors, kps⟩ where
  places _ k hk := ⟨k, hk, rfl, rfl⟩
  window _ k c _ hk hc _ := by
    have hnone := h k (List.mem_of_getElem? hk)
    rw [hc] at hnone
    cases hnone

theorem ClaimsInWindow.withdrawMatch (h : ClaimsInWindow i kps st) (n : Nat) :
    ClaimsInWindow i kps (withdrawMatch n st) where
  places m k hk := by
    obtain ⟨x, hx, rfl | ⟨-, rfl⟩⟩ := updateAt_getElem?_cases hk
    · exact h.places m _ hx
    · exact h.places m x hx
  window m k c a hk hc ha := by
    obtain ⟨x, hx, rfl | ⟨-, rfl⟩⟩ := updateAt_getElem?_cases hk
    · exact h.window m _ c a hx hc ha
    · cases hc

/-- A claim recorded for the candidate `kps[q]` on an anchor of its window. -/
theorem ClaimsInWindow.recordClaim (h : ClaimsInWindow i kps st) (hq : kps[q]? = some k)
    (ha : st.anchors[best.index]? = some a) (hw : inWindow i k a) : ClaimsInWindow i kps (recordClaim q best st) where
  places m k hk := by
    obtain ⟨x, hx, rfl | ⟨-, rfl⟩⟩ := updateAt_getElem?_cases hk
    · exact h.places m _ hx
    · exact h.places m x hx
  window m k' c b hk hc hb := by
    obtain ⟨b₀, hb₀, hbx, hby⟩ : ∃ b₀, st.anchors[c.index]? = some b₀ ∧ b.ax = b₀.ax ∧ b.ay = b₀.ay := by
      obtain ⟨b₀, hb₀, rfl | ⟨-, rfl⟩⟩ := updateAt_getElem?_cases hb <;> exact ⟨_, hb₀, rfl, rfl⟩
    obtain ⟨x, hx, rfl | ⟨rfl, rfl⟩⟩ := updateAt_getElem?_cases hk
    · exact (inWindow_congr rfl rfl hbx hby).2 (h.window m _ c b₀ hx hc hb₀)
    · obtain rfl : best = c := Option.some.inj hc
      obtain rfl : a = b₀ := Option.some.inj (ha.symm.trans hb₀)
      obtain ⟨k₀, hk₀, hkx, hky⟩ := h.places m x hx
      obtain rfl : k = k₀ := Option.some.inj (hq.symm.trans hk₀)
      exact (inWindow_congr hkx hky hbx hby).2 hw

theorem ClaimsInWindow.searchCandidate (h : ClaimsInWindow i kps st) (hk : kps[k.index]? = some k) :
    ClaimsInWindow i kps (searchCandidate i st k) := by
  rcases searchCandidate_cases i st k with hsame | ⟨best, a, ha, helig, hattempt⟩
  · rwa [hsame]
  · have hw := inWindow_of_eligible helig
    rw [hattempt]
    rcases attemptClaim_cases st k.index best with hst | htake | ⟨n, htake⟩
    · rwa [hst]
    · rw [htake]
      exact h.recordClaim hk ha hw
    · rw [htake]
      exact (h.withdrawMatch n).recordClaim hk ha hw

theorem claimsInWindow_settleClaims (i : MatchInputs) (anchors : List Anchor) (hm : ∀ k ∈ kps, k.matched = none)
    (hi : ∀ (n : Nat) (k : Keypoint), kps[n]? = some k → k.index = n) :
    ClaimsInWindow i kps (settleClaims i anchors kps) := by
  refine List.foldlRecOn kps (searchCandidate i) (.of_unmatched anchors hm) fun st hst k hk => hst.searchCandidate ?_
  obtain ⟨n, hn⟩ := List.mem_iff_getElem?.1 hk
  rw [hi n k hn, hn]

/-- R114: a claim's displacement differs from the prediction by what its anchor lies from the search point. -/
theorem ClaimsInWindow.displacement_mem_window (h : ClaimsInWindow i kps st) {d : Point} (hd : d ∈ claimDisplacements i st) :
    (d.x - i.pred.x).natAbs ≤ i.params.rx ∧ (d.y - i.pred.y).natAbs ≤ i.params.ry := by
  obtain ⟨k, hk, hvote⟩ := List.mem_filterMap.1 hd
  obtain ⟨n, hn⟩ := List.mem_iff_getElem?.1 hk
  split at hvote
  · cases hvote
  · rename_i c hc
    obtain ⟨a, ha, rfl⟩ := Option.map_eq_some_iff.1 hvote
    obtain ⟨hx, hy⟩ := h.window n k c a hn hc ha
    simp only [searchPoint] at hx hy
    dsimp only
    omega

/-! ### The vote grid (R114) -/

theorem gridBin_injective : Function.Injective gridBin := by
  intro n m h
  simp only [gridBin, Point.mk.injEq] at h
  omega

/-- Windows up to 252 and 124 keep every vote in the grid. -/
theorem binOf_mem_grid {pred d : Point} (hx : (d.x - pred.x).natAbs ≤ 252) (hy : (d.y - pred.y).natAbs ≤ 124) :
    ∃ n, n < 512 ∧ gridBin n = binOf pred d := by
  refine ⟨(((d.y - pred.y) / 16 + 8) * 32 + ((d.x - pred.x) / 16 + 16)).toNat, by omega, ?_⟩
  simp only [gridBin, binOf, Point.mk.injEq]
  omega

/-- The bins of the grid differ from each other, so each vote is counted once. -/
theorem voteGrid_sum {bins : List Point} (h : ∀ b ∈ bins, ∃ n, n < 512 ∧ gridBin n = b) :
    (voteGrid bins).sum = bins.length := by
  have hgrid : voteGrid bins = ((List.range 512).map gridBin).map fun b => bins.count b := by
    simp only [voteGrid, List.map_map, Function.comp_def]
  have hmem : ∀ b ∈ (bins : Multiset Point), b ∈ ((List.range 512).map gridBin).toFinset := by simpa using h
  rw [hgrid, ← List.sum_toFinset _ (List.nodup_range.map gridBin_injective)]
  simpa only [Multiset.coe_count, Multiset.coe_card] using Multiset.sum_count_eq_card hmem

theorem register_votes (i : MatchInputs) (anchors : List Anchor) (kps : List Keypoint) : (register i anchors kps).votes =
    voteGrid ((claimDisplacements i (settleClaims i anchors kps)).map (binOf i.pred)) := by
  rw [register]

theorem register_count (i : MatchInputs) (anchors : List Anchor) (kps : List Keypoint) :
    (register i anchors kps).count = (claimDisplacements i (settleClaims i anchors kps)).length := rfl

/-! ### The winning bin (R115) -/

theorem binBeats_trans {votes : List Nat} {a b c : Nat} (hab : binBeats votes a b = true)
    (hbc : binBeats votes b c = true) : binBeats votes a c = true := by
  simp only [binBeats, decide_eq_true_eq] at *
  omega

/-- No two bins agree on all three keys. -/
theorem binBeats_total (votes : List Nat) (a b : Nat) : a = b ∨ binBeats votes a b = true ∨ binBeats votes b a = true := by
  have hkeys : a = b ∨ (gridBin a).y ≠ (gridBin b).y ∨ (gridBin a).x ≠ (gridBin b).x := by
    simp only [gridBin]
    omega
  simp only [binBeats, decide_eq_true_eq]
  omega

/-- The search from b through `l` ends at the bin that beats all others it has met. -/
theorem foldl_binBeats (votes : List Nat) : ∀ (l : List Nat) (b : Nat),
    let w := l.foldl (fun best n => if binBeats votes n best then n else best) b
    w ∈ b :: l ∧ ∀ n ∈ b :: l, w = n ∨ binBeats votes w n = true
  | [], b => by simp
  | x :: l, b => by
    dsimp only
    rw [List.foldl_cons]
    obtain ⟨hmem, hall⟩ := foldl_binBeats votes l (if binBeats votes x b then x else b)
    generalize List.foldl _ _ l = w at hmem hall ⊢
    have beatsAlso {y z : Nat} (hw : w = y ∨ binBeats votes w y = true) (hyz : binBeats votes y z = true) :
        binBeats votes w z = true := by
      rcases hw with rfl | hw
      · exact hyz
      · exact binBeats_trans hw hyz
    obtain ⟨hhead, hrest⟩ := List.forall_mem_cons.1 hall
    split at hmem
    · rename_i hx
      rw [if_pos hx] at hhead
      exact ⟨List.mem_cons_of_mem b hmem,
        List.forall_mem_cons.2 ⟨.inr (beatsAlso hhead hx), List.forall_mem_cons.2 ⟨hhead, hrest⟩⟩⟩
    · rename_i hx
      rw [if_neg hx] at hhead
      refine ⟨?_, List.forall_mem_cons.2 ⟨hhead, List.forall_mem_cons.2 ⟨?_, hrest⟩⟩⟩
      · rcases List.mem_cons.1 hmem with rfl | hmem
        · exact List.mem_cons_self
        · exact List.mem_cons_of_mem _ (List.mem_cons_of_mem _ hmem)
      · rcases binBeats_total votes b x with rfl | hbx | hxb
        · exact hhead
        · exact .inr (beatsAlso hhead hbx)
        · exact absurd hxb hx

theorem winningBin_lt (votes : List Nat) : winningBin votes < 512 := by
  have hmem : winningBin votes ∈ 0 :: List.range 512 := (foldl_binBeats votes (List.range 512) 0).1
  simp only [List.mem_cons, List.mem_range] at hmem
  omega

theorem winningBin_beats (votes : List Nat) {n : Nat} (hn : n < 512) (hne : n ≠ winningBin votes) :
    binBeats votes (winningBin votes) n = true :=
  ((foldl_binBeats votes (List.range 512) 0).2 n (List.mem_cons_of_mem 0 (List.mem_range.2 hn))).resolve_left (Ne.symm hne)

theorem votes_le_winningBin (votes : List Nat) {n : Nat} (hn : n < 512) :
    votes.getD n 0 ≤ votes.getD (winningBin votes) 0 := by
  by_cases hne : n = winningBin votes
  · rw [hne]
  · have hbeats := winningBin_beats votes hn hne
    simp only [binBeats, decide_eq_true_eq] at hbeats
    omega

/-! ### The support (R116) -/

@[simp] theorem inBlock_self (b : Point) : inBlock b b = true := by simp [inBlock]

/-- A vote for some bin is answered by a vote for the winner, which lies in its own block. -/
theorem inliers_ne_nil {pred d : Point} {ds : List Point} (hd : d ∈ ds) {n : Nat} (hn : n < 512)
    (hbin : gridBin n = binOf pred d) : inliers pred (voteGrid (ds.map (binOf pred))) ds ≠ [] := by
  have hle := votes_le_winningBin (voteGrid (ds.map (binOf pred))) hn
  have hlt := winningBin_lt (voteGrid (ds.map (binOf pred)))
  have hvote : 0 < (ds.map (binOf pred)).count (gridBin n) :=
    List.count_pos_iff.2 (hbin ▸ List.mem_map_of_mem hd)
  rw [voteGrid_getD _ hn, voteGrid_getD _ hlt] at hle
  obtain ⟨e, he, hwin⟩ := List.mem_map.1 (List.count_pos_iff.1 (hvote.trans_le hle))
  exact List.ne_nil_of_mem (List.mem_filter.2 ⟨he, by simp [hwin]⟩)

/-! ### The obligation -/

/-- Settles O59: the votes fall in the grid by `ClaimsInWindow` of the settled claims, and the winner is `foldl_binBeats`. -/
theorem everyVoteFallsInTheGridAndTheBestBinWins : Obligations.EveryVoteFallsInTheGridAndTheBestBinWins := by
  refine ⟨fun i anchors kps _ hm hi hrx hry => ?_, fun votes => ⟨winningBin_lt votes, fun n hn hne => ?_⟩⟩
  · have hgrid : ∀ d ∈ claimDisplacements i (settleClaims i anchors kps), ∃ n, n < 512 ∧ gridBin n = binOf i.pred d := by
      intro d hd
      obtain ⟨hx, hy⟩ := (claimsInWindow_settleClaims i anchors hm hi).displacement_mem_window hd
      exact binOf_mem_grid (hx.trans hrx) (hy.trans hry)
    refine ⟨by rw [register_votes, voteGrid_length], ?_, fun hcount => ?_, fun hcount => ?_⟩
    · rw [register_votes, register_count, voteGrid_sum (List.forall_mem_map.2 hgrid), List.length_map]
    · obtain ⟨d, hd⟩ := List.exists_mem_of_length_pos hcount
      obtain ⟨n, hn, hbin⟩ := hgrid d hd
      exact List.length_pos_of_ne_nil (inliers_ne_nil hd hn hbin)
    · have hnil : claimDisplacements i (settleClaims i anchors kps) = [] := List.eq_nil_of_length_eq_zero hcount
      simp [register, hnil, inliers]
  · have hbeats := winningBin_beats votes hn hne
    simp only [binBeats, decide_eq_true_eq] at hbeats
    simp only [binDistance, gridBin] at hbeats
    dsimp only
    omega

end Sys2Proof.Proofs
end

section
/-! PROOF. O39 (R101, R105): a frame taken to be registered, and its prediction from the hint chain. -/

namespace Sys2Proof.Proofs

open Sys2Proof.Machine

variable {s : State} {i : Fin 3} {f : CapturedFrame}

theorem exec_registrationTake (s : State) : exec .registrationTake s = execRegistrationTake s := rfl

/-- R100: a WAITING engine takes the oldest READY frame in every capturing state. -/
theorem canTakeFrame_of_ready (he : s.reg.engine = .waiting) (hi : oldestIn .ready s = some i)
    (hs : capturing s.sweep.state = true) : canTakeFrame s = true := by
  simp [canTakeFrame, he, hi, hs]

/-- R100: outside ARMED the frame is not taken as the seed. -/
theorem takeFrame_of_not_armed (hi : oldestIn .ready s = some i) (hf : s.capture.slots.get i = some f)
    (hs : s.sweep.state ≠ .armed) : takeFrame s = takeToRegister i f s := by
  simp [takeFrame, hi, hf, hs]

theorem exec_registrationTake_of_running (hp : s.power = .running) (he : s.reg.engine = .waiting)
    (hs : s.sweep.state = .tracking ∨ s.sweep.state = .coasting) (hi : oldestIn .ready s = some i)
    (hf : s.capture.slots.get i = some f) :
    exec .registrationTake s = .next (arbitrate (takeToRegister i f s)) := by
  have hcapturing : capturing s.sweep.state = true := by rcases hs with hs | hs <;> rw [hs] <;> rfl
  have hseed : s.sweep.state ≠ .armed := by rcases hs with hs | hs <;> rw [hs] <;> decide
  rw [exec_registrationTake, execRegistrationTake, event_enabled hp (canTakeFrame_of_ready he hi hcapturing),
    takeFrame_of_not_armed hi hf hseed]

/-- Settles O39: what is taken is `takeToRegister`, field by field, with the prediction that `predict` makes of R105. -/
theorem takenFrameIsPredictedFromTheHintChain : Obligations.TakenFrameIsPredictedFromTheHintChain :=
  fun _ _ _ hp he hs hi hf => exec_registrationTake_of_running hp he hs hi hf

end Sys2Proof.Proofs
end

section
/-! PROOF. O44 (R126, R127, R137, R143 to R145): what a composite leaves of a column's luma, chroma and coverage, by the column's class,
the frame's coverage and the column's coverage before. -/

namespace Sys2Proof.Proofs

open Sys2Proof.Machine

variable {i : PaintInputs} {t : Tile} {c : Int} {n r w : Nat} {cov : Option Coverage}

/-! ### The class of a column (R126, R127) -/

/-- R126: the FEATHER weight of band column c. -/
def bandWeight (i : PaintInputs) (c : Int) : Nat :=
  i.feather.values.getD (i.feather.values.length - i.entry.band + (c - firstWritten i.entry.eOld i.entry.band).toNat) 0

theorem columnClass_untouched (h : c < firstWritten i.entry.eOld i.entry.band ∨ i.entry.eNew < c) :
    columnClass i.entry i.feather c = .untouched := by
  simp [columnClass, h]

theorem columnClass_band (hfirst : firstWritten i.entry.eOld i.entry.band ≤ c) (hlast : c ≤ i.entry.eNew)
    (hold : c ≤ i.entry.eOld) : columnClass i.entry i.feather c = .band (bandWeight i c) := by
  simp [columnClass, bandWeight, hfirst.not_gt, hlast.not_gt, hold]

theorem columnClass_fresh (hfirst : firstWritten i.entry.eOld i.entry.band ≤ c) (hlast : c ≤ i.entry.eNew)
    (hnew : i.entry.eOld < c) : columnClass i.entry i.feather c = .fresh := by
  simp [columnClass, hfirst.not_gt, hlast.not_gt, hnew.not_ge]

/-! ### One sample (R137, R143) -/

theorem gainApplied_toNat (g : Nat) (y : Byte) : (gainApplied g y).toNat = min 255 ((y.toNat * g + 2048) / 4096) := by
  rw [gainApplied, BitVec.toNat_ofNat, Nat.mod_eq_of_lt (by omega)]

/-- A weighted mean of two bytes is a byte, so the blend of R143 loses nothing. -/
theorem blend_toNat (hw : w ≤ 256) (old new : Byte) :
    (blend w old new).toNat = (old.toNat * (256 - w) + new.toNat * w + 128) / 256 := by
  have hold : old.toNat * (256 - w) ≤ 255 * (256 - w) := Nat.mul_le_mul_right _ (by omega)
  have hnew : new.toNat * w ≤ 255 * w := Nat.mul_le_mul_right _ (by omega)
  rw [blend, BitVec.toNat_ofNat, Nat.mod_eq_of_lt (by omega)]

theorem oldCovered_iff : oldCovered cov r = true ↔ ∃ s : Coverage, cov = some s ∧ s.top ≤ r ∧ r ≤ s.bottom := by
  cases cov <;> simp [oldCovered]

/-! R143's table, one row each. -/

@[simp] theorem sampleAfter_untouched (fill : Byte) (new : Option Byte) (was : Bool) (old : Byte) :
    sampleAfter .untouched fill new was old = old := rfl

@[simp] theorem sampleAfter_band_not_covered (fill : Byte) (was : Bool) (old : Byte) :
    sampleAfter (.band w) fill none was old = old := rfl

@[simp] theorem sampleAfter_band_over_old (fill new old : Byte) :
    sampleAfter (.band w) fill (some new) true old = blend w old new := rfl

@[simp] theorem sampleAfter_band_beside_old (fill new old : Byte) :
    sampleAfter (.band w) fill (some new) false old = new := rfl

@[simp] theorem sampleAfter_fresh (fill : Byte) (new : Option Byte) (was : Bool) (old : Byte) :
    sampleAfter .fresh fill new was old = new.getD fill := rfl

/-! ### What the frame gives a pixel (R88, R89, R92) -/

/-- The frame covers canvas pixel (c, r). -/
def coversPixel (i : PaintInputs) (c r : Int) : Prop :=
  0 ≤ sourceRow i.map (entryOfColumn i.map i.entry.origin c) i.entry.origin r ∧
    sourceRow i.map (entryOfColumn i.map i.entry.origin c) i.entry.origin r < i.frame.record.h

theorem rowCovered_iff_coversPixel {r : Int} :
    rowCovered i.map (entryOfColumn i.map i.entry.origin c) i.entry.origin i.frame.record.h r = true ↔ coversPixel i c r :=
  rowCovered_iff r

/-- The stored luma under canvas pixel (c, r), gain not applied. -/
def storedLuma (i : PaintInputs) (c : Int) (r : Nat) : Byte :=
  let e := entryOfColumn i.map i.entry.origin c
  (i.frame.luma.getD (sourceRow i.map e i.entry.origin r).toNat []).getD (sourceColumn e i.entry.origin i.frame.record.w) 0

/-- The stored chroma pair under canvas pixel (c, r). -/
def storedPair (i : PaintInputs) (c : Int) (r : Nat) : Byte × Byte :=
  let e := entryOfColumn i.map i.entry.origin c
  (i.frame.chroma.getD ((sourceRow i.map e i.entry.origin r).toNat / 2) []).getD
    (sourceColumn e i.entry.origin i.frame.record.w / 2) (128, 128)

theorem newLuma_of_covered (h : coversPixel i c r) : newLuma i c r = some (gainApplied i.gain (storedLuma i c r)) :=
  if_pos (rowCovered_iff_coversPixel.2 h)

theorem newLuma_of_not_covered (h : ¬coversPixel i c r) : newLuma i c r = none :=
  if_neg (mt rowCovered_iff_coversPixel.1 h)

theorem two_mul_half (h : r % 2 = 0) : 2 * (r / 2) = r := Nat.mul_div_cancel' (Nat.dvd_of_mod_eq_zero h)

theorem newChroma_of_covered (hr : r % 2 = 0) (h : coversPixel i c r) : newChroma i c (r / 2) = some (storedPair i c r) := by
  rw [newChroma, two_mul_half hr]
  exact if_pos (rowCovered_iff_coversPixel.2 h)

theorem newChroma_of_not_covered (hr : r % 2 = 0) (h : ¬coversPixel i c r) : newChroma i c (r / 2) = none := by
  rw [newChroma, two_mul_half hr]
  exact if_neg (mt rowCovered_iff_coversPixel.1 h)

/-! ### A column's luma (R143) -/

/-- The rule of R143 holds for the rows of every column, since an untouched sample is the old one. -/
theorem paintLuma_getD (hr : r < i.hc) (old : List Byte) : (paintLuma i c cov old).getD r 0 =
    sampleAfter (columnClass i.entry i.feather c) 0 (newLuma i c r) (oldCovered cov r) (old.getD r 0) := by
  unfold paintLuma
  cases columnClass i.entry i.feather c <;> simp [hr]

theorem paintLuma_getD_band (hr : r < i.hc) (hband : columnClass i.entry i.feather c = .band w) (hw : w ≤ 256)
    (old : List Byte) :
    (coversPixel i c r → oldCovered cov r = true → ((paintLuma i c cov old).getD r 0).toNat =
      ((old.getD r 0).toNat * (256 - w) + min 255 (((storedLuma i c r).toNat * i.gain + 2048) / 4096) * w + 128) / 256) ∧
    (coversPixel i c r → ¬oldCovered cov r = true → ((paintLuma i c cov old).getD r 0).toNat =
      min 255 (((storedLuma i c r).toNat * i.gain + 2048) / 4096)) ∧
    (¬coversPixel i c r → (paintLuma i c cov old).getD r 0 = old.getD r 0) := by
  rw [paintLuma_getD hr, hband]
  refine ⟨fun hcov hwas => ?_, fun hcov hwas => ?_, fun hcov => ?_⟩
  · rw [newLuma_of_covered hcov, hwas, sampleAfter_band_over_old, blend_toNat hw, gainApplied_toNat]
  · rw [newLuma_of_covered hcov, Bool.eq_false_of_not_eq_true hwas, sampleAfter_band_beside_old, gainApplied_toNat]
  · rw [newLuma_of_not_covered hcov, sampleAfter_band_not_covered]

theorem paintLuma_getD_fresh (hr : r < i.hc) (hfresh : columnClass i.entry i.feather c = .fresh) (old : List Byte) :
    (coversPixel i c r → ((paintLuma i c cov old).getD r 0).toNat =
      min 255 (((storedLuma i c r).toNat * i.gain + 2048) / 4096)) ∧
    (¬coversPixel i c r → (paintLuma i c cov old).getD r 0 = 0) := by
  rw [paintLuma_getD hr, hfresh, sampleAfter_fresh]
  refine ⟨fun hcov => ?_, fun hcov => ?_⟩
  · rw [newLuma_of_covered hcov, Option.getD_some, gainApplied_toNat]
  · rw [newLuma_of_not_covered hcov, Option.getD_none]

/-! ### A column's chroma (R144) -/

/-- The pair of an even row takes R143's rule with the class and coverages of that row, once for Cb and once for Cr. -/
theorem paintChroma_getD (heven : r % 2 = 0) (hr : r / 2 < i.hc / 2) (old : List (Byte × Byte)) :
    (paintChroma i c cov old).getD (r / 2) (128, 128) =
      (sampleAfter (columnClass i.entry i.feather c) 128 ((newChroma i c (r / 2)).map (·.1)) (oldCovered cov r)
          (old.getD (r / 2) (128, 128)).1,
        sampleAfter (columnClass i.entry i.feather c) 128 ((newChroma i c (r / 2)).map (·.2)) (oldCovered cov r)
          (old.getD (r / 2) (128, 128)).2) := by
  unfold paintChroma
  cases columnClass i.entry i.feather c <;> simp [hr, two_mul_half heven]

theorem paintChroma_getD_band (heven : r % 2 = 0) (hr : r / 2 < i.hc / 2)
    (hband : columnClass i.entry i.feather c = .band w) (hw : w ≤ 256) (old : List (Byte × Byte)) :
    let was := old.getD (r / 2) (128, 128)
    let now := (paintChroma i c cov old).getD (r / 2) (128, 128)
    let mix := fun a b : Byte => (a.toNat * (256 - w) + b.toNat * w + 128) / 256
    (coversPixel i c r → oldCovered cov r = true →
      now.1.toNat = mix was.1 (storedPair i c r).1 ∧ now.2.toNat = mix was.2 (storedPair i c r).2) ∧
    (coversPixel i c r → ¬oldCovered cov r = true → now = storedPair i c r) ∧
    (¬coversPixel i c r → now = was) := by
  dsimp only
  rw [paintChroma_getD heven hr, hband]
  refine ⟨fun hcov hwas => ?_, fun hcov hwas => ?_, fun hcov => ?_⟩
  · rw [newChroma_of_covered heven hcov, hwas]
    exact ⟨blend_toNat hw .., blend_toNat hw ..⟩
  · rw [newChroma_of_covered heven hcov, Bool.eq_false_of_not_eq_true hwas]
    rfl
  · rw [newChroma_of_not_covered heven hcov]
    rfl

theorem paintChroma_getD_fresh (heven : r % 2 = 0) (hr : r / 2 < i.hc / 2)
    (hfresh : columnClass i.entry i.feather c = .fresh) (old : List (Byte × Byte)) :
    (coversPixel i c r → (paintChroma i c cov old).getD (r / 2) (128, 128) = storedPair i c r) ∧
    (¬coversPixel i c r → (paintChroma i c cov old).getD (r / 2) (128, 128) = (128, 128)) := by
  rw [paintChroma_getD heven hr, hfresh]
  refine ⟨fun hcov => ?_, fun hcov => ?_⟩
  · rw [newChroma_of_covered heven hcov]
    rfl
  · rw [newChroma_of_not_covered heven hcov]
    rfl

/-! ### A column's coverage (R145) -/

theorem coverageAfter_untouched (h : columnClass i.entry i.feather c = .untouched) : coverageAfter i c cov = cov := by
  simp [coverageAfter, h]

/-- R145's cases for a written column: no canvas row covered, or the entry widened to just hold the covered ones. -/
theorem coverageAfter_widens (hfirst : firstWritten i.entry.eOld i.entry.band ≤ c) (hlast : c ≤ i.entry.eNew) :
    let reached := fun q : Nat => q < i.hc ∧ coversPixel i c q
    ((∀ q, ¬reached q) → coverageAfter i c cov = cov) ∧
    ((∃ q, reached q) → ∃ s : Coverage, coverageAfter i c cov = some s ∧ (∀ q, reached q → s.top ≤ q ∧ q ≤ s.bottom) ∧
      (∀ o, cov = some o → s.top ≤ o.top ∧ o.bottom ≤ s.bottom) ∧
      (reached s.top ∨ ∃ o, cov = some o ∧ o.top = s.top) ∧
      (reached s.bottom ∨ ∃ o, cov = some o ∧ o.bottom = s.bottom)) := by
  have hspan := coveredSpan_spec i.map (entryOfColumn i.map i.entry.origin c) i.entry.origin i.frame.record.h i.hc
  simp only [rowCovered_iff_coversPixel] at hspan
  rw [coverageAfter_written i c cov hfirst hlast]
  rcases hspan with ⟨hnone, hno⟩ | ⟨sp, hsome, htop, hbottom, hwithin⟩
  · rw [hnone]
    exact ⟨fun _ => rfl, fun ⟨q, hq⟩ => absurd hq (hno q)⟩
  · rw [hsome]
    refine ⟨fun hno => absurd htop (hno _), fun _ => ?_⟩
    cases cov with
    | none => exact ⟨sp, rfl, hwithin, nofun, .inl htop, .inl hbottom⟩
    | some o =>
      refine ⟨_, rfl, fun q hq => ?_, fun o' ho => ?_, ?_, ?_⟩
      · obtain ⟨htq, hqb⟩ := hwithin q hq
        exact ⟨(min_le_right ..).trans htq, hqb.trans (le_max_right ..)⟩
      · cases ho
        exact ⟨min_le_left .., le_max_left ..⟩
      · rcases min_choice o.top sp.top with h | h
        · exact .inr ⟨o, rfl, h.symm⟩
        · exact .inl (by simpa only [Option.elim, h] using htop)
      · rcases max_choice o.bottom sp.bottom with h | h
        · exact .inr ⟨o, rfl, h.symm⟩
        · exact .inl (by simpa only [Option.elim, h] using hbottom)

/-! ### The columns of a tile -/

section
variable (hrange : i.entry.firstTile ≤ t.index ∧ t.index ≤ i.entry.lastTile) (hn : n < 64)
include hrange hn

theorem paintTile_luma_getD : (paintTile i t).luma.getD n [] =
    paintLuma i (64 * (t.index : Int) + n) (t.coverage.getD n none) (t.luma.getD n []) := by
  simp [paintTile, hrange, hn]

theorem paintTile_coverage_getD : (paintTile i t).coverage.getD n none =
    coverageAfter i (64 * (t.index : Int) + n) (t.coverage.getD n none) := by
  simp [paintTile, hrange, hn]

/-- R144: a pair column is painted as its even luma column. -/
theorem paintTile_chroma_getD (heven : n % 2 = 0) : (paintTile i t).chroma.getD (n / 2) [] =
    paintChroma i (64 * (t.index : Int) + n) (t.coverage.getD n none) (t.chroma.getD (n / 2) []) := by
  have hhalf : n / 2 < 32 := by omega
  have hcolumn : ((64 * t.index + n : Nat) : Int) = 64 * t.index + n := by push_cast; rfl
  simp only [paintTile, hrange, and_self, if_true, List.getD_eq_getElem?_getD, List.getElem?_map,
    List.getElem?_range hhalf, Option.map_some, Option.getD_some, two_mul_half heven, hcolumn]

end

/-! ### The obligation -/

/-- Settles O44: each column of the tile is painted by its class, and the table of R143 says what each class makes of a sample. -/
theorem compositeBlendsTheBandAndFillsFreshColumns : Obligations.CompositeBlendsTheBandAndFillsFreshColumns := by
  intro i t n r hn hr _ _ hrange
  dsimp only
  rw [paintTile_luma_getD hrange hn, paintTile_coverage_getD hrange hn, ← oldCovered_iff]
  refine ⟨fun hout => ⟨?_, coverageAfter_untouched (columnClass_untouched hout)⟩, fun hfirst hlast hold hw => ?_,
    fun hfirst hlast hnew => ?_, coverageAfter_widens, fun hneven hreven hrc _ _ => ?_⟩
  · rw [paintLuma_getD hr, columnClass_untouched hout, sampleAfter_untouched]
  · obtain ⟨hblend, htake, hkeep⟩ := paintLuma_getD_band hr (columnClass_band hfirst hlast hold) hw _
    exact ⟨hblend, htake, fun hcov => congrArg BitVec.toNat (hkeep hcov)⟩
  · obtain ⟨htake, hfill⟩ := paintLuma_getD_fresh hr (columnClass_fresh hfirst hlast hnew) _
    exact ⟨htake, fun hcov => congrArg BitVec.toNat (hfill hcov)⟩
  · rw [paintTile_chroma_getD hrange hn hneven]
    refine ⟨fun hout => ?_, fun hfirst hlast hold hw => ?_, fun hfirst hlast hnew => ?_⟩
    · rw [paintChroma_getD hreven hrc, columnClass_untouched hout]
      rfl
    · exact paintChroma_getD_band hreven hrc (columnClass_band hfirst hlast hold) hw _
    · exact paintChroma_getD_fresh hreven hrc (columnClass_fresh hfirst hlast hnew) _

end Sys2Proof.Proofs
end

section
/-! PROOF. O29 (R155): GRANT taken with one parameter adds it to the credits; with any other count it is answered FORMAT. -/

namespace Sys2Proof.Proofs

open Sys2Proof.Machine

variable {s : State} {body : List Byte} {rest : List (List Byte)}

theorem exec_grant (s : State) : exec .grant s = execGrant s := rfl

/-- R155: the one parameter word is what `grantCredits` adds. -/
theorem exec_grant_of_param {n : Nat} (h : s.offers body rest) (hc : dirCode body = 0x18) (hp : dirParams body = some [n]) :
    exec .grant s = .next (arbitrate (grantCredits body n (s.taken rest))) := by
  rw [exec_grant]
  exact takeDirective_params (act := fun body ps => grantCredits body (ps.getD 0 0)) (ps := [n]) h (by simp [hc]) hp rfl

theorem exec_grant_of_format (h : s.offers body rest) (hc : dirCode body = 0x18)
    (hn : ∀ ps, dirParams body = some ps → ps.length ≠ 1) :
    exec .grant s = .next (arbitrate (replyTo body .format [] (s.taken rest))) := by
  rw [exec_grant]
  exact takeDirective_format (act := fun body ps => grantCredits body (ps.getD 0 0)) h (by simp [hc]) hn

/-- Settles O29: a GRANT of one word is `grantCredits`, which does not ask for the sweep state; parameters that
are not one word have another count. -/
theorem grantAddsCreditsUpTo255 : Obligations.GrantAddsCreditsUpTo255 := by
  intro s body rest ho hc
  refine ⟨fun n hp => exec_grant_of_param ho hc hp, fun hn => exec_grant_of_format ho hc fun ps hps hlen => ?_⟩
  obtain ⟨n, rfl⟩ := List.length_eq_one_iff.1 hlen
  exact hn n hps

end Sys2Proof.Proofs
end

section
/-! PROOF. O25 (R176, R177): RESET_ENGINE's effect block by block, its reply as the only note, and the outlet's packet. -/

namespace Sys2Proof.Proofs

open Sys2Proof.Machine

variable {s : State} {body : List Byte} {rest : List (List Byte)}

/-! ### The arbiter on an idle lane (R13, R14) -/

theorem arbitrate_of_forward {p : Packet} {q : List Packet} (hp : s.power = .running) (hh : s.holdLine = false)
    (ho : s.outlet.sending = none) (hf : s.forward = p :: q) : arbitrate s = startPacket .forward p s := by
  simp [arbitrate, hp, hh, ho, hf]

theorem arbitrate_of_note {n : Note} {q : List Note} (hp : s.power = .running) (hh : s.holdLine = false)
    (ho : s.outlet.sending = none) (hf : s.forward = []) (hn : s.notes.queue = n :: q) :
    arbitrate s = startPacket .note (notePacket n) s := by
  simp [arbitrate, hp, hh, ho, hf, hn]

/-- Only a tile packet's start counts in the sweep, and a note goes ahead of it. -/
theorem arbitrate_sweep_of_note {n : Note} {q : List Note} (hn : s.notes.queue = n :: q) :
    (arbitrate s).sweep = s.sweep := by
  by_cases hb : s.power ≠ .running ∨ s.holdLine = true ∨ s.outlet.sending ≠ none
  · rw [arbitrate_blocked hb]
  · simp only [not_or, ne_eq, Decidable.not_not, Bool.not_eq_true] at hb
    obtain ⟨hp, hh, ho⟩ := hb
    cases hf : s.forward with
    | nil => rw [arbitrate_of_note hp hh ho hf hn, startPacket_sweep]
    | cons p q => rw [arbitrate_of_forward hp hh ho hf, startPacket_sweep]

/-! ### A reply placed at once (R171) -/

/-- A settled note unit with a free slot holds no waiting reply, and takes the directive unit's at its tail. -/
theorem replyTo_of_room (hs : s.notes.settled) (hq : s.notes.queue.length < noteSlots) (body : List Byte)
    (r : ResultCode) (ws : List Word) :
    replyTo body r ws s = { s with
      notes := { s.notes with queue := s.notes.queue ++ [.reply (dirTag body) (dirCode body) r ws] }
      dirs := { s.dirs with replyWaiting := false } } := by
  have hr : s.notes.replies = [] := (hs.2.resolve_left hq.ne).1
  have hslots : noteSlots - s.notes.queue.length ≠ 0 := by omega
  have hplaced (w : WaitingReply) : repliesPlaced { s.notes with replies := s.notes.replies ++ [w] } = [w] := by
    simp [repliesPlaced, hr, List.take_of_length_le, Nat.one_le_iff_ne_zero.2 hslots]
  simp [replyTo, fill, hplaced, fillNotes_reply hs, hq]

theorem settled_noteUnit_zero : NoteUnit.zero.settled :=
  ⟨Nat.zero_le _, .inr ⟨rfl, fun k _ => PerKind.get_const none k⟩⟩

/-! ### The run settled in an emptied ring (R164) -/

@[simp] theorem settleRun_ring_tiles (s : State) : (settleRun s).ring.tiles = s.ring.tiles := by
  unfold settleRun; repeat' (split <;> try rfl)
@[simp] theorem settleRun_ring_sealedQueue (s : State) : (settleRun s).ring.sealedQueue = s.ring.sealedQueue := by
  unfold settleRun; repeat' (split <;> try rfl)
@[simp] theorem settleRun_ring_starved (s : State) : (settleRun s).ring.starved = s.ring.starved := by
  unfold settleRun; repeat' (split <;> try rfl)

/-- What becomes of a run depends on the run and on the packet on the outlet alone. -/
theorem settleRun_run_congr {t : State} (hr : t.ring.run = s.ring.run) (ho : t.outlet = s.outlet) :
    (settleRun t).ring.run = (settleRun s).ring.run := by
  have htile : tileOnOutlet t = tileOnOutlet s := by unfold tileOnOutlet; rw [ho]
  unfold settleRun
  rw [hr, htile]
  split
  · exact hr
  · split
    · rfl
    · rfl
    · exact hr
    · rfl

theorem resetBlocks_ring (s : State) : (resetBlocks s).ring = ⟨[], [], none, 0, false, (settleRun s).ring.run⟩ := by
  have hrun : (emptyRing s).ring.run = (settleRun s).ring.run := settleRun_run_congr rfl rfl
  simp only [resetBlocks, hrun]
  simp [emptyRing]

/-! ### The operation cut (R195) -/

@[simp] theorem cutOperation_marker (s : State) : (cutOperation s).store.marker = none := by
  unfold cutOperation; split <;> simp [*]
@[simp] theorem cutOperation_isProtected (s : State) : (cutOperation s).store.isProtected = s.store.isProtected := by
  unfold cutOperation; split <;> rfl
@[simp] theorem cutOperation_defaultSlot (s : State) : (cutOperation s).store.defaultSlot = s.store.defaultSlot := by
  unfold cutOperation; split <;> rfl

theorem cutOperation_slot_of_unmarked {i : Fin 4} (h : ∀ m, s.store.marker = some m → m.slot ≠ i) :
    (cutOperation s).store.slots.get i = s.store.slots.get i := by
  unfold cutOperation
  split
  · rfl
  · exact ProfileSlots.get_set_ne _ (h _ ‹_›).symm _

theorem cutOperation_slot_of_marked {m : Marker} (h : s.store.marker = some m) :
    (cutOperation s).store.slots.get m.slot =
      { s.store.slots.get m.slot with state := .torn, image := tornImage s.freeIndex } := by
  simp [cutOperation, h]

/-! ### The reply's words (R177) -/

theorem abortedSlotWord_eq (s : State) : abortedSlotWord s = natWord ((s.store.marker.map fun m => m.slot.val).getD 4) := by
  unfold abortedSlotWord; split <;> simp [*]

theorem discardedReplyWord_of_none (h : ∀ r ∈ s.notes.replies, r.source ≠ .profileStore) : discardedReplyWord s = 0 := by
  have hfind : s.notes.replies.find? (fun r => r.source = .profileStore) = none := by simpa using h
  simp [discardedReplyWord, hfind]

/-- The code is that of the first profile reply waiting. -/
theorem discardedReplyWord_of_first {pre post : List WaitingReply} {tag code : Byte} {r : ResultCode} {ws : List Word}
    (h : s.notes.replies = pre ++ ⟨.profileStore, .reply tag code r ws⟩ :: post)
    (hpre : ∀ r ∈ pre, r.source ≠ .profileStore) : discardedReplyWord s = natWord code.toNat := by
  have hfind : pre.find? (fun r => r.source = .profileStore) = none := by simpa using hpre
  simp [discardedReplyWord, h, List.find?_append, hfind, noteCode]

/-! ### The obligation -/

theorem exec_resetEngine (s : State) : exec .resetEngine s = execResetEngine s := rfl

/-- R177: RESET_ENGINE's reply. -/
def engineResetReply (body : List Byte) (s : State) : Note :=
  .reply (dirTag body) 0x04 .done [natWord ((s.store.marker.map fun m => m.slot.val).getD 4), discardedReplyWord s,
    natWord (pendingSet s.notes.pending), natWord s.notes.queue.length]

/-- The state RESET_ENGINE leaves to the arbiter: R176, R177, and the reply alone in the note queue. -/
def engineReset (body : List Byte) (s : State) : State :=
  { resetUnits (resetBlocks s) with
    notes := { NoteUnit.zero with queue := [.reply (dirTag body) (dirCode body) .done (resetEngineWords s)] } }

theorem exec_resetEngine_of_offers (h : s.offers body rest) (hc : dirCode body = 0x04) (hp : dirParams body = some []) :
    exec .resetEngine s = .next (arbitrate (engineReset body (s.taken rest))) := by
  have hreply : replyTo body .done (resetEngineWords (s.taken rest)) (resetUnits (resetBlocks (s.taken rest))) =
      engineReset body (s.taken rest) :=
    replyTo_of_room (s := resetUnits (resetBlocks (s.taken rest))) settled_noteUnit_zero (Nat.zero_lt_succ 15) ..
  rw [exec_resetEngine, ← hreply]
  exact takeDirective_params (ps := [])
    (act := fun b _ s => replyTo b .done (resetEngineWords s) (resetUnits (resetBlocks s))) h (by simp [hc]) hp rfl

/-! What `engineReset` leaves to each block, and what it keeps. -/

@[simp] theorem engineReset_power (body : List Byte) (s : State) : (engineReset body s).power = s.power := by
  simp [engineReset, resetUnits, resetBlocks]
@[simp] theorem engineReset_mode (body : List Byte) (s : State) : (engineReset body s).mode = s.mode := by
  simp [engineReset, resetUnits, resetBlocks]
@[simp] theorem engineReset_holdLine (body : List Byte) (s : State) : (engineReset body s).holdLine = s.holdLine := by
  simp [engineReset, resetUnits, resetBlocks]
@[simp] theorem engineReset_inlet (body : List Byte) (s : State) : (engineReset body s).inlet = s.inlet := by
  simp [engineReset, resetUnits, resetBlocks]
@[simp] theorem engineReset_forward (body : List Byte) (s : State) : (engineReset body s).forward = s.forward := by
  simp [engineReset, resetUnits, resetBlocks]
@[simp] theorem engineReset_counters (body : List Byte) (s : State) : (engineReset body s).counters = s.counters := by
  simp [engineReset, resetUnits, resetBlocks]
@[simp] theorem engineReset_outlet (body : List Byte) (s : State) :
    (engineReset body s).outlet = { s.outlet with sending := s.outlet.sending.map orphanNote } := by
  simp [engineReset, resetUnits, resetBlocks]
@[simp] theorem engineReset_sweep (body : List Byte) (s : State) :
    (engineReset body s).sweep = { Sweep.zero with id := s.sweep.id } := by
  simp [engineReset, resetUnits, resetBlocks]
@[simp] theorem engineReset_placement (body : List Byte) (s : State) : (engineReset body s).placement = .zero := by
  simp [engineReset, resetUnits, resetBlocks]
@[simp] theorem engineReset_capture (body : List Byte) (s : State) :
    (engineReset body s).capture = { s.capture with slots := .allFree, order := [] } := by
  simp [engineReset, resetUnits, resetBlocks]
@[simp] theorem engineReset_reg (body : List Byte) (s : State) : (engineReset body s).reg = .zero := by
  simp [engineReset, resetUnits, resetBlocks]
@[simp] theorem engineReset_comp (body : List Byte) (s : State) : (engineReset body s).comp = ⟨false, []⟩ := by
  simp [engineReset, resetUnits, resetBlocks]
@[simp] theorem engineReset_ring (body : List Byte) (s : State) :
    (engineReset body s).ring = ⟨[], [], none, 0, false, (settleRun s).ring.run⟩ := by
  simp [engineReset, resetUnits, resetBlocks_ring]
@[simp] theorem engineReset_tables (body : List Byte) (s : State) :
    (engineReset body s).tables = { s.tables with assembly := none } := by
  simp [engineReset, resetUnits, resetBlocks]
@[simp] theorem engineReset_dirs (body : List Byte) (s : State) :
    (engineReset body s).dirs = { s.dirs with replyWaiting := false } := by
  simp [engineReset, resetUnits, resetBlocks]
@[simp] theorem engineReset_store (body : List Byte) (s : State) :
    (engineReset body s).store = { (cutOperation s).store with busy := none } := by
  unfold engineReset resetUnits cutOperation
  simp only [resetBlocks, emptyRing_store]
  split <;> simp

/-- R171, R172, R177: every kind MASKED, no record, and the reply the only note. -/
theorem engineReset_notes (hc : dirCode body = 0x04) (s : State) :
    (engineReset body s).notes = { NoteUnit.zero with queue := [engineResetReply body s] } := by
  unfold engineReset engineResetReply resetEngineWords
  rw [hc, abortedSlotWord_eq]

/-! The outlet after the arbiter's choice (R13 to R15). -/

theorem arbitrate_engineReset_outlet_of_sending {p : Sending} (hp : s.outlet.sending = some p) (body : List Byte) :
    (arbitrate (engineReset body s)).outlet = { s.outlet with sending := some (orphanNote p) } := by
  rw [arbitrate_blocked (.inr (.inr (by simp [hp]))), engineReset_outlet, hp, Option.map_some]

theorem arbitrate_engineReset_outlet_of_held (hn : s.outlet.sending = none) (hh : s.holdLine = true) (body : List Byte) :
    (arbitrate (engineReset body s)).outlet = s.outlet := by
  rw [arbitrate_blocked (.inr (.inl (by simpa using hh))), engineReset_outlet, hn, Option.map_none, ← hn]

theorem arbitrate_engineReset_outlet_of_forward {p : Packet} {q : List Packet} (hrun : s.power = .running)
    (hn : s.outlet.sending = none) (hh : s.holdLine = false) (hf : s.forward = p :: q) (body : List Byte) :
    (arbitrate (engineReset body s)).outlet = { s.outlet with sending := some ⟨.forward, p, false⟩ } := by
  rw [arbitrate_of_forward (p := p) (q := q) (by simpa) (by simpa) (by simp [hn]) (by simpa)]
  simp [startPacket]

theorem arbitrate_engineReset_outlet_of_idle (hc : dirCode body = 0x04) (hrun : s.power = .running)
    (hn : s.outlet.sending = none) (hh : s.holdLine = false) (hf : s.forward = []) :
    (arbitrate (engineReset body s)).outlet =
      { s.outlet with sending := some ⟨.note, notePacket (engineResetReply body s), false⟩ } := by
  have hqueue := congrArg NoteUnit.queue (engineReset_notes hc s)
  rw [arbitrate_of_note (by simpa) (by simpa) (by simp [hn]) (by simpa) hqueue]
  simp [startPacket]

/-- Settles O25: RESET_ENGINE leaves `engineReset`, read field by field, and its reply keeps the tile emitter from the outlet. -/
theorem resetEngineRestartsTheSweepSide : Obligations.ResetEngineRestartsTheSweepSide := by
  intro s body rest ho hc hp
  have hrun : (s.taken rest).power = .running := ho.1
  have hsweep := arbitrate_sweep_of_note (congrArg NoteUnit.queue (engineReset_notes hc (s.taken rest)))
  have hring : (arbitrate (engineReset body (s.taken rest))).ring = ⟨[], [], none, 0, false, (settleRun s).ring.run⟩ := by
    rw [arbitrate_ring, engineReset_ring, settleRun_run_congr (s := s) (t := s.taken rest) rfl rfl]
  have hstore := (arbitrate_store _).trans (engineReset_store body (s.taken rest))
  refine ⟨_, exec_resetEngine_of_offers ho hc hp, hsweep.trans (engineReset_sweep ..),
    (arbitrate_placement _).trans (engineReset_placement ..), (arbitrate_capture _).trans (engineReset_capture ..),
    (arbitrate_reg _).trans (engineReset_reg ..), (arbitrate_comp _).trans (engineReset_comp ..), hring,
    (arbitrate_tables _).trans (engineReset_tables ..), (arbitrate_counters _).trans (engineReset_counters ..),
    (arbitrate_mode _).trans (engineReset_mode ..), (arbitrate_inlet _).trans (engineReset_inlet ..),
    (arbitrate_forward _).trans (engineReset_forward ..), (arbitrate_dirs _).trans (engineReset_dirs ..),
    congrArg Store.busy hstore, (congrArg Store.marker hstore).trans (cutOperation_marker _),
    (congrArg Store.isProtected hstore).trans (cutOperation_isProtected _),
    (congrArg Store.defaultSlot hstore).trans (cutOperation_defaultSlot _), ?unmarked, ?marked,
    discardedReplyWord s, discardedReplyWord_of_none, ?discarded,
    (arbitrate_notes _).trans (engineReset_notes hc (s.taken rest)), ?sending, ?idle⟩
  case unmarked =>
    intro i hi
    rw [hstore]
    exact cutOperation_slot_of_unmarked (s := s.taken rest) hi
  case marked =>
    intro m hm
    have hslot := cutOperation_slot_of_marked (s := s.taken rest) hm
    rw [hstore]
    exact ⟨congrArg ProfileSlot.state hslot, (congrArg ProfileSlot.wear hslot :)⟩
  case discarded => exact fun pre tag code res payload post hr hpre => discardedReplyWord_of_first hr hpre
  case sending => exact fun p hsending => arbitrate_engineReset_outlet_of_sending (s := s.taken rest) hsending body
  case idle =>
    exact fun hn => ⟨fun hh => arbitrate_engineReset_outlet_of_held (s := s.taken rest) hn hh body, fun hh =>
      ⟨fun p q hf => arbitrate_engineReset_outlet_of_forward hrun hn hh hf body,
        arbitrate_engineReset_outlet_of_idle hc hrun hn hh⟩⟩

end Sys2Proof.Proofs
end

section
/-! PROOF. O21 (R174): STATUS answers with the twenty-eight words of the state it is taken in. -/

namespace Sys2Proof.Proofs

open Sys2Proof.Machine

variable {s : State} {body : List Byte} {rest : List (List Byte)}

theorem exec_status (s : State) : exec .status s = execStatus s := rfl

/-- STATUS asks for no sweep state, and its words are those of the state without the directive. -/
theorem exec_status_of_offers (h : s.offers body rest) (hc : dirCode body = 0x01) (hp : dirParams body = some []) :
    exec .status s = .next (arbitrate (replyTo body .done (statusWords s) (s.taken rest))) := by
  rw [exec_status]
  exact takeDirective_params (ps := []) (act := fun b _ s => replyTo b .done (statusWords s) s) h (by simp [hc]) hp rfl

theorem modeCode_eq (m : Mode) : modeCode m = if m = .service then 1 else 0 := by cases m <;> rfl

theorem framingCode_eq (s : State) : framingCode s.inlet.framing = if inHunt s then 0 else 1 := by
  unfold inHunt; cases s.inlet.framing <;> rfl

/-- A field of a table that is EMPTY is reported as 0. -/
theorem getD_columnMap_field (f : ColumnMap → Nat) (h : f ⟨0, 0, 0, 0, []⟩ = 0) (m : Option ColumnMap) :
    f (m.getD ⟨0, 0, 0, 0, []⟩) = (m.map f).getD 0 := by
  cases m with
  | none => exact h
  | some m => rfl

/-- Settles O21: the words are `statusWords`, with the table's codes and the counts of tiles written out. -/
theorem statusReportsThePartAsItStands : Obligations.StatusReportsThePartAsItStands := by
  intro s body rest ho hc hp
  rw [exec_status_of_offers ho hc hp]
  simp only [statusWords, List.countP_eq_length_filter, modeCode_eq, framingCode_eq,
    getD_columnMap_field (·.wFor) rfl, getD_columnMap_field (·.hFor) rfl, getD_columnMap_field (·.k) rfl]
  rfl

end Sys2Proof.Proofs
end

section
/-! PROOF. O23 (R175): COUNTERS reads the eight counters, clears them under ZERO, and refuses any other option. -/

namespace Sys2Proof.Proofs

open Sys2Proof.Machine

variable {s : State} {body : List Byte} {rest : List (List Byte)} {option : Nat}

theorem exec_counters (s : State) : exec .counters s = execCounters s := rfl

/-- The one parameter word is the option that `readCounters` looks at. -/
theorem exec_counters_of_param (h : s.offers body rest) (hc : dirCode body = 0x03) (hp : dirParams body = some [option]) :
    exec .counters s = .next (arbitrate (readCounters body option (s.taken rest))) := by
  rw [exec_counters]
  exact takeDirective_params (ps := [option]) (act := fun b ps => readCounters b (ps.getD 0 0)) h (by simp [hc]) hp rfl

theorem readCounters_read (body : List Byte) (s : State) :
    readCounters body 0 s = replyTo body .done (counterWords s.counters) s := rfl

theorem readCounters_zero (body : List Byte) (s : State) :
    readCounters body 1 s = replyTo body .done (counterWords s.counters) { s with counters := .zero } := rfl

theorem readCounters_of_one_lt (h : 1 < option) (body : List Byte) (s : State) :
    readCounters body option s = replyTo body .range [] s := if_pos h

/-- Settles O23: READ, ZERO and the options that are neither, one by one. -/
theorem countersAreReadAndZeroed : Obligations.CountersAreReadAndZeroed := by
  intro s body rest option ho hc hp
  rw [exec_counters_of_param ho hc hp]
  refine ⟨?read, ?zero, ?refused⟩
  case read => rintro rfl; rw [readCounters_read]; rfl
  case zero => rintro rfl; rw [readCounters_zero]; rfl
  case refused => intro h; rw [readCounters_of_one_lt h]

end Sys2Proof.Proofs
end

section
/-! PROOF. What the profile directives and completions share: the checks of R187 passed, the slot a parameter names, and the slot
a completion finds marked. -/

namespace Sys2Proof.Proofs

open Sys2Proof.Machine

variable {s : State} {body : List Byte} {rest : List (List Byte)}

/-! ### A directive accepted (R187) -/

/-- A directive with its parameter count, in a mode that allows it, with the store neither busy nor refusing it, is carried out. -/
theorem profileChecks_of_passed {n : Nat} {service unprotected : Bool} {act : List Nat → State → State} {ps : List Nat}
    (hp : dirParams body = some ps) (hn : ps.length = n) (hm : service = true → s.mode = .service)
    (hb : s.store.busy = none) (hu : unprotected = true → s.store.isProtected = false) :
    profileChecks n service unprotected body act s = act ps s := by
  have hmode : ¬(service && decide (s.mode = .normal)) = true := fun h => by
    obtain ⟨hservice, hnormal⟩ := Bool.and_eq_true_iff.1 h
    rw [hm hservice] at hnormal
    cases hnormal
  have hbusy : ¬s.store.busy.isSome = true := by simp [hb]
  have hprotected : ¬(unprotected && s.store.isProtected) = true := fun h => by
    obtain ⟨hneeds, hset⟩ := Bool.and_eq_true_iff.1 h
    rw [hu hneeds] at hset
    cases hset
  rw [profileChecks, withParams_some hp hn, if_neg hmode, if_neg hbusy, if_neg hprotected]

theorem withSlot_val (body : List Byte) (i : Fin 4) (act : Fin 4 → State → State) (s : State) :
    withSlot body [i.val] act s = act i s :=
  dif_pos i.isLt

/-- The take of a profile directive without parameters that passes the checks. -/
theorem takeProfile_of_passed {is : Byte → Bool} {service unprotected : Bool} {act : List Byte → State → State}
    (h : s.offers body rest) (hc : is (dirCode body) = true) (hp : dirParams body = some [])
    (hm : service = true → s.mode = .service) (hb : s.store.busy = none)
    (hu : unprotected = true → s.store.isProtected = false) :
    takeDirective is (fun b s => profileChecks 0 service unprotected b (fun _ s => act b s) s) s =
      .next (arbitrate (act body (s.taken rest))) := by
  rw [takeDirective_of_offers h hc, profileChecks_of_passed (n := 0) (s := s.taken rest) hp rfl hm hb hu]

/-- The take of a profile directive of one slot that passes the checks. -/
theorem takeProfileSlot_of_passed {is : Byte → Bool} {service unprotected : Bool}
    {act : List Byte → Fin 4 → State → State} {i : Fin 4} (h : s.offers body rest) (hc : is (dirCode body) = true)
    (hp : dirParams body = some [i.val]) (hm : service = true → s.mode = .service) (hb : s.store.busy = none)
    (hu : unprotected = true → s.store.isProtected = false) :
    takeDirective is (fun b s => profileChecks 1 service unprotected b (fun ps s => withSlot b ps (act b) s) s) s =
      .next (arbitrate (act body i (s.taken rest))) := by
  rw [takeDirective_of_offers h hc, profileChecks_of_passed (n := 1) (s := s.taken rest) hp rfl hm hb hu, withSlot_val]

/-! ### An operation in progress (R168) -/

variable {i : Fin 4} {op : ProfileOp}

theorem inProgress_of_marker (h : s.store.marker = some ⟨i, op⟩) : inProgress op s = true := by
  simp [inProgress, h]

theorem markedSlot_of_marker (h : s.store.marker = some ⟨i, op⟩) : markedSlot s = i := by
  simp [markedSlot, h]

/-- The event of an operation that the marker names: its effect, then the arbiter. -/
theorem event_inProgress {effect : State → State} (hp : s.power = .running) (h : s.store.marker = some ⟨i, op⟩) :
    event (inProgress op) effect s = .next (arbitrate (effect s)) :=
  event_enabled hp (inProgress_of_marker h)

/-! ### The wear of a slot (R188, R192) -/

theorem wornOnce_eq (p : ProfileSlot) : wornOnce p = { p with wear := if p.wear < 250 then p.wear + 1 else p.wear } := by
  unfold wornOnce wearLimit
  split <;> rfl

end Sys2Proof.Proofs
end

section
/-! PROOF. O31 (R188): PROFILE_ERASE at its take, by the wear of its slot, and at its completion. -/

namespace Sys2Proof.Proofs

open Sys2Proof.Machine

variable {s : State} {body : List Byte} {rest : List (List Byte)} {i : Fin 4}

theorem exec_profileErase (s : State) : exec .profileErase s = execProfileErase s := rfl

theorem exec_profileErase_of_passed (h : s.offers body rest) (hc : dirCode body = 0x31)
    (hp : dirParams body = some [i.val]) (hm : s.mode = .service) (hb : s.store.busy = none)
    (hu : s.store.isProtected = false) :
    exec .profileErase s = .next (arbitrate (eraseSlot body i (s.taken rest))) := by
  rw [exec_profileErase]
  exact takeProfileSlot_of_passed (act := eraseSlot) h (by simp [hc]) hp (fun _ => hm) hb fun _ => hu

theorem eraseSlot_of_worn (h : 250 ≤ (s.store.slots.get i).wear) (body : List Byte) :
    eraseSlot body i s = replyTo body .worn [natWord i.val, natWord (s.store.slots.get i).wear] s :=
  if_pos h

theorem eraseSlot_of_lt (h : (s.store.slots.get i).wear < 250) (body : List Byte) :
    eraseSlot body i s = beginOperation body i .erase
      (setProfileSlot i { s.store.slots.get i with wear := (s.store.slots.get i).wear + 1 } s) := by
  have hworn : ¬wearLimit ≤ (s.store.slots.get i).wear := Nat.not_le.2 h
  rw [eraseSlot, if_neg hworn, wornOnce_eq, if_pos h]

theorem exec_profileEraseComplete (s : State) : exec .profileEraseComplete s = execProfileEraseComplete s := rfl

theorem completeErase_of_marker (h : s.store.marker = some ⟨i, .erase⟩) :
    completeErase s = storeReply 0x31 .done [natWord i.val, natWord (s.store.slots.get i).wear]
      (clearMarker (setProfileSlot i (erasedSlot (s.store.slots.get i)) s)) := by
  rw [completeErase, markedSlot_of_marker h]
  rfl

/-- Settles O31: the take is `eraseSlot`, decided by the slot's wear, and the completion is that of the marked slot. -/
theorem profileEraseCountsWearAndBlanksTheSlot : Obligations.ProfileEraseCountsWearAndBlanksTheSlot := by
  refine ⟨fun s body rest i ho hc hp hm hb hu => ?take, fun s i hrun hmarker => ?complete⟩
  case take =>
    rw [exec_profileErase_of_passed ho hc hp hm hb hu]
    exact ⟨fun hworn => by rw [eraseSlot_of_worn (s := s.taken rest) hworn]; rfl,
      fun hlt => by rw [eraseSlot_of_lt (s := s.taken rest) hlt]; rfl⟩
  case complete =>
    rw [exec_profileEraseComplete, execProfileEraseComplete, event_inProgress hrun hmarker,
      completeErase_of_marker hmarker]
    rfl

end Sys2Proof.Proofs
end

section
/-! PROOF. O34 (R192): PROFILE_ERASE_ALL at its take, from stage to stage, and at the end of slot 3's stage. -/

namespace Sys2Proof.Proofs

open Sys2Proof.Machine

variable {s : State} {body : List Byte} {rest : List (List Byte)} {i j : Fin 4}

theorem exec_profileEraseAll (s : State) : exec .profileEraseAll s = execProfileEraseAll s := rfl

/-- The protect flag does not refuse it. -/
theorem exec_profileEraseAll_of_passed (h : s.offers body rest) (hc : dirCode body = 0x36)
    (hp : dirParams body = some []) (hm : s.mode = .service) (hb : s.store.busy = none) :
    exec .profileEraseAll s = .next (arbitrate (beginEraseAll body (s.taken rest))) := by
  rw [exec_profileEraseAll]
  exact takeProfile_of_passed (act := beginEraseAll) h (by simp [hc]) hp (fun _ => hm) hb nofun

/-- The start of a slot's stage counts its wear and sets the marker. -/
theorem startStage_eq (i : Fin 4) (s : State) :
    startStage i s = { s with store := { s.store with
      slots := s.store.slots.set i { s.store.slots.get i with
        wear := if (s.store.slots.get i).wear < 250 then (s.store.slots.get i).wear + 1 else (s.store.slots.get i).wear }
      marker := some ⟨i, .eraseAll⟩ } } := by
  rw [startStage, wornOnce_eq]
  rfl

theorem exec_eraseAllStageEnd (s : State) : exec .eraseAllStageEnd s = execEraseAllStageEnd s := rfl

theorem exec_eraseAllStageEnd_of_marker (hrun : s.power = .running) (h : s.store.marker = some ⟨i, .eraseAll⟩) :
    exec .eraseAllStageEnd s = .next (arbitrate (endStage s)) := by
  rw [exec_eraseAllStageEnd, execEraseAllStageEnd, event_inProgress hrun h]

/-- The end of a stage that is not the last starts the next slot's. -/
theorem endStage_of_next (h : s.store.marker = some ⟨i, .eraseAll⟩) (hj : j.val = i.val + 1) :
    endStage s = startStage j (setProfileSlot i (erasedSlot (s.store.slots.get i)) s) := by
  rw [endStage, markedSlot_of_marker h]
  match i, j, hj with
  | 0, 1, _ => rfl
  | 1, 2, _ => rfl
  | 2, 3, _ => rfl

theorem endStage_of_last (h : s.store.marker = some ⟨3, .eraseAll⟩) :
    endStage s = completeEraseAll (setProfileSlot 3 (erasedSlot s.store.slots.p3) s) := by
  rw [endStage, markedSlot_of_marker h]
  rfl

/-- Settles O34: the take and every stage but the last start a stage, and the last completes the operation. -/
theorem eraseAllErasesTheFourSlotsInOrder : Obligations.EraseAllErasesTheFourSlotsInOrder := by
  refine ⟨fun s body rest ho hc hp hm hb => ?take, fun s i j hrun hmarker hj => ?next, fun s hrun hmarker => ?last⟩
  case take =>
    rw [exec_profileEraseAll_of_passed ho hc hp hm hb, beginEraseAll, startStage_eq]
    rfl
  case next =>
    have hne : j ≠ i := fun h => by rw [h] at hj; omega
    rw [exec_eraseAllStageEnd_of_marker hrun hmarker, endStage_of_next hmarker hj, startStage_eq, setProfileSlot_slots,
      ProfileSlots.get_set_ne _ hne]
    rfl
  case last =>
    rw [exec_eraseAllStageEnd_of_marker hrun hmarker, endStage_of_last hmarker]
    rfl

end Sys2Proof.Proofs
end

section
/-! PROOF. O4 (R195, R196): what the store keeps through a loss of power, and the cut slot and the working tables at the release. -/

namespace Sys2Proof.Proofs

open Sys2Proof.Machine

variable {s : State} {st : Store} {i : Fin 4}

theorem exec_powerLoss (s : State) : exec .powerLoss s =
    .next (.cold .off s.mode s.holdLine .empty { s.store with busy := none, tag := 0 } s.freeIndex s.pending) := rfl

theorem exec_resetRelease (high : Bool) (s : State) : exec (.resetRelease high) s = .next (powerOn high s) := rfl

/-! ### The store at the release -/

/-- The release cuts an operation in progress, and the store is no longer busy. -/
theorem powerOn_store (high : Bool) (s : State) :
    (powerOn high s).store = { (cutOperation s).store with busy := none, tag := 0 } := rfl

/-- The recall reads the slots as the release leaves them. -/
theorem powerOn_tables (high : Bool) (s : State) :
    (powerOn high s).tables = powerOnTables (powerOn high s).store := rfl

/-! ### Power-on recall (R196) -/

theorem powerOnTables_of_none (h : st.defaultSlot = none) : powerOnTables st = .empty := by
  rw [powerOnTables, h]

theorem powerOnTables_of_not_written (h : st.defaultSlot = some i) (hw : (st.slots.get i).state ≠ .written) :
    powerOnTables st = .empty := by
  simp only [powerOnTables, h, if_neg hw]

theorem powerOnTables_of_invalid {e : TableId × Int} (h : st.defaultSlot = some i)
    (hr : recallImage (st.slots.get i).image = .error e) : powerOnTables st = .empty := by
  simp only [powerOnTables, h, hr, ite_self]

theorem powerOnTables_of_valid {m : ColumnMap} {f g : ValueTable} (h : st.defaultSlot = some i)
    (hw : (st.slots.get i).state = .written) (hr : recallImage (st.slots.get i).image = .ok (m, f, g)) :
    powerOnTables st = ⟨some m, some f, some g, none⟩ := by
  simp only [powerOnTables, h, if_pos hw, hr]

/-- Settles O4: the release's store is `cutOperation`'s, and the tables are `powerOnTables` of it. -/
theorem powerOnTearsTheCutSlotAndRecallsTheDefault : Obligations.PowerOnTearsTheCutSlotAndRecallsTheDefault := by
  intro s high
  refine ⟨⟨_, exec_powerLoss s, rfl, rfl, rfl, rfl, rfl⟩, _, exec_resetRelease high s, ?_⟩
  rw [powerOn_tables, powerOn_store]
  refine ⟨cutOperation_marker s, rfl, cutOperation_isProtected s, cutOperation_defaultSlot s,
    fun i hi => cutOperation_slot_of_unmarked hi, fun m hm => ?torn, fun i m f g => powerOnTables_of_valid, ?empty⟩
  case torn =>
    have hslot := cutOperation_slot_of_marked hm
    exact ⟨congrArg ProfileSlot.state hslot, (congrArg ProfileSlot.wear hslot :)⟩
  case empty =>
    rintro (hnone | ⟨i, hi, hblank | ⟨e, he⟩⟩)
    · exact powerOnTables_of_none hnone
    · exact powerOnTables_of_not_written hi hblank
    · exact powerOnTables_of_invalid hi he

end Sys2Proof.Proofs
end

section
/-! PROOF. O33 (R190, R191): PROFILE_VERIFY and PROFILE_BLANK_CHECK at their takes and completions, the offset of a slot's first
written word, and the first difference between an image and the working set. -/

namespace Sys2Proof.Proofs

open Sys2Proof.Machine

variable {s : State} {body : List Byte} {rest : List (List Byte)} {i : Fin 4}

/-! ### The takes -/

theorem exec_profileVerify (s : State) : exec .profileVerify s = execProfileVerify s := rfl

/-- VERIFY asks neither for the mode nor for the protect flag. -/
theorem exec_profileVerify_of_passed (h : s.offers body rest) (hc : dirCode body = 0x33)
    (hp : dirParams body = some [i.val]) (hb : s.store.busy = none) :
    exec .profileVerify s = .next (arbitrate (verifySlot body i (s.taken rest))) := by
  rw [exec_profileVerify]
  exact takeProfileSlot_of_passed (act := verifySlot) h (by simp [hc]) hp nofun hb nofun

theorem verifySlot_of_not_written (h : (s.store.slots.get i).state ≠ .written) (body : List Byte) :
    verifySlot body i s = replyTo body .notWritten [] s :=
  if_pos h

theorem verifySlot_of_written (h : (s.store.slots.get i).state = .written) (body : List Byte) :
    verifySlot body i s = beginOperation body i .verify s :=
  if_neg (not_not.2 h)

theorem exec_profileBlankCheck (s : State) : exec .profileBlankCheck s = execProfileBlankCheck s := rfl

theorem exec_profileBlankCheck_of_passed (h : s.offers body rest) (hc : dirCode body = 0x34)
    (hp : dirParams body = some [i.val]) (hb : s.store.busy = none) :
    exec .profileBlankCheck s = .next (arbitrate (beginOperation body i .blankCheck (s.taken rest))) := by
  rw [exec_profileBlankCheck]
  exact takeProfileSlot_of_passed (act := fun b i s => beginOperation b i .blankCheck s) h (by simp [hc]) hp nofun hb nofun

/-! ### The completions -/

theorem exec_profileVerifyComplete (s : State) : exec .profileVerifyComplete s = execProfileVerifyComplete s := rfl

theorem exec_profileVerifyComplete_of_marker (hrun : s.power = .running) (h : s.store.marker = some ⟨i, .verify⟩) :
    exec .profileVerifyComplete s = .next (arbitrate (completeVerify s)) := by
  rw [exec_profileVerifyComplete, execProfileVerifyComplete, event_inProgress hrun h]

theorem completeVerify_of_same (h : s.store.marker = some ⟨i, .verify⟩)
    (hd : imageDifference (s.store.slots.get i).image s.tables = none) :
    completeVerify s = storeReply 0x33 .done [natWord i.val] (clearMarker s) := by
  simp only [completeVerify, markedSlot_of_marker h, hd]

theorem completeVerify_of_different {id : TableId} {n : Int} (h : s.store.marker = some ⟨i, .verify⟩)
    (hd : imageDifference (s.store.slots.get i).image s.tables = some (id, n)) :
    completeVerify s =
      storeReply 0x33 .mismatch [natWord i.val, natWord (tableIdCode id), intWord n] (clearMarker s) := by
  simp only [completeVerify, markedSlot_of_marker h, hd]

theorem exec_profileBlankCheckComplete (s : State) :
    exec .profileBlankCheckComplete s = execProfileBlankCheckComplete s := rfl

theorem exec_profileBlankCheckComplete_of_marker (hrun : s.power = .running)
    (h : s.store.marker = some ⟨i, .blankCheck⟩) :
    exec .profileBlankCheckComplete s = .next (arbitrate (completeBlankCheck s)) := by
  rw [exec_profileBlankCheckComplete, execProfileBlankCheckComplete, event_inProgress hrun h]

theorem completeBlankCheck_of_blank (h : s.store.marker = some ⟨i, .blankCheck⟩)
    (hd : notBlankOffset (s.store.slots.get i) = none) :
    completeBlankCheck s = storeReply 0x34 .done [natWord i.val] (clearMarker s) := by
  simp only [completeBlankCheck, markedSlot_of_marker h, hd]

theorem completeBlankCheck_of_offset {a : Nat} (h : s.store.marker = some ⟨i, .blankCheck⟩)
    (hd : notBlankOffset (s.store.slots.get i) = some a) :
    completeBlankCheck s = storeReply 0x34 .notBlank [natWord i.val, natWord a] (clearMarker s) := by
  simp only [completeBlankCheck, markedSlot_of_marker h, hd]

/-! ### The offset of a slot that is not BLANK (R191) -/

theorem notBlankOffset_of_blank {p : ProfileSlot} (h : p.state = .blank) : notBlankOffset p = none := by
  rw [notBlankOffset, h]

theorem notBlankOffset_of_written {p : ProfileSlot} (h : p.state = .written) : notBlankOffset p = some 0 := by
  rw [notBlankOffset, h]

/-- A canonical image lists its words in order, so a TORN slot's offset is that of the first word that is not erased. -/
theorem notBlankOffset_of_torn {p : ProfileSlot} (h : p.state = .torn) (hwf : p.image.wf) :
    ∃ a, a ≤ 6144 ∧ (∀ b, b < a → imageRead p.image b = 0xFFFF) ∧ (a < 6144 → imageRead p.image a ≠ 0xFFFF) ∧
      notBlankOffset p = some a := by
  have hoffset : notBlankOffset p = some ((p.image.head?.map (·.1)).getD imageSize) := by rw [notBlankOffset, h]
  cases himage : p.image with
  | nil =>
    rw [himage] at hoffset
    exact ⟨6144, Nat.le_refl _, fun _ _ => rfl, fun hlt => absurd hlt (Nat.lt_irrefl _), hoffset⟩
  | cons q l =>
    rw [himage] at hoffset hwf
    obtain ⟨hin, hword⟩ := hwf.2 q (List.mem_cons_self ..)
    refine ⟨q.1, Nat.le_of_lt hin, fun b hb => imageRead_below_head hwf hb, fun _ => ?_, hoffset⟩
    rwa [show imageRead (q :: l) q.1 = q.2 from if_pos rfl]

/-! ### The first entry that differs -/

/-- The image's words at entry `n`, where the table has one, are the expected ones. -/
def rowSpelled (img : Image) (base per : Nat) (expected : List (List Half)) (n : Nat) : Prop :=
  ∀ row, expected[n]? = some row → ∀ j, j < per → imageRead img (base + per * n + j) = row.getD j erasedWord

variable {img : Image} {base per n : Nat} {expected : List (List Half)}

/-- The test that `firstDifference` makes of an entry. -/
theorem rowDiffers_iff (hn : n < expected.length) :
    ((List.range per).any fun j => imageRead img (base + per * n + j) != (expected.getD n []).getD j erasedWord) = true ↔
      ¬rowSpelled img base per expected n := by
  simp [rowSpelled, hn, List.getD_eq_getElem?_getD]

theorem firstDifference_of_all_spelled (h : ∀ n, rowSpelled img base per expected n) :
    firstDifference img base per expected = none := by
  rw [firstDifference, List.find?_eq_none]
  exact fun n hn => mt (rowDiffers_iff (List.mem_range.1 hn)).1 (not_not.2 (h n))

theorem firstDifference_of_lowest (h : ¬rowSpelled img base per expected n)
    (hlow : ∀ k, k < n → rowSpelled img base per expected k) : firstDifference img base per expected = some n := by
  have hn : n < expected.length := by
    by_contra hout
    exact h fun row hrow => by simp [List.getElem?_eq_none (Nat.le_of_not_lt hout)] at hrow
  rw [firstDifference, List.find?_range_eq_some]
  refine ⟨(rowDiffers_iff hn).2 h, List.mem_range.2 hn, fun k hk => ?_⟩
  rw [Bool.not_eq_true', Bool.eq_false_iff]
  exact mt (rowDiffers_iff (hk.trans hn)).1 (not_not.2 (hlow k hk))

/-! ### The COLUMN_MAP against the image -/

/-- The COLUMN_MAP is VALID and the image's first words are its header. -/
def mapHeaderSpelled (img : Image) (m : Option ColumnMap) : Prop :=
  ∃ x, m = some x ∧ imageRead img 0 = natHalf x.wFor ∧ imageRead img 1 = natHalf x.hFor ∧
    imageRead img 2 = natHalf x.yc ∧ imageRead img 3 = natHalf x.k

/-- The image's words at entry `n` of the COLUMN_MAP are that entry's. -/
def mapEntrySpelled (img : Image) (m : Option ColumnMap) (n : Nat) : Prop :=
  ∀ x e, m = some x → x.entries[n]? = some e →
    imageRead img (4 + 3 * n) = natHalf e.xs ∧ imageRead img (5 + 3 * n) = natHalf e.s ∧
      imageRead img (6 + 3 * n) = natHalf e.t

variable {m : Option ColumnMap} {v : Option ValueTable}

theorem mapEntrySpelled_some_iff (x : ColumnMap) :
    mapEntrySpelled img (some x) n ↔ ∀ e, x.entries[n]? = some e →
      imageRead img (4 + 3 * n) = natHalf e.xs ∧ imageRead img (5 + 3 * n) = natHalf e.s ∧
        imageRead img (6 + 3 * n) = natHalf e.t :=
  ⟨fun h e => h x e rfl, fun h _ e hx => by cases hx; exact h e⟩

theorem rowSpelled_map_iff (x : ColumnMap) :
    rowSpelled img 4 3 (x.entries.map fun e => [natHalf e.xs, natHalf e.s, natHalf e.t]) n ↔
      mapEntrySpelled img (some x) n := by
  have hs : 5 + 3 * n = 4 + 3 * n + 1 := by omega
  have ht : 6 + 3 * n = 4 + 3 * n + 2 := by omega
  have hthree (P : Nat → Prop) : (∀ j, j < 3 → P j) ↔ P 0 ∧ P 1 ∧ P 2 :=
    ⟨fun h => ⟨h 0 (by omega), h 1 (by omega), h 2 (by omega)⟩, fun ⟨h0, h1, h2⟩ j hj => by
      interval_cases j <;> assumption⟩
  simp [rowSpelled, mapEntrySpelled_some_iff, hs, ht, hthree]

theorem columnMapDifference_of_header (h : ¬mapHeaderSpelled img m) : columnMapDifference img m = some (-1) := by
  cases m with
  | none => rfl
  | some x => exact if_neg fun hx => h ⟨x, rfl, hx⟩

theorem columnMapDifference_of_entry (hh : mapHeaderSpelled img m) (hn : ¬mapEntrySpelled img m n)
    (hlow : ∀ k, k < n → mapEntrySpelled img m k) : columnMapDifference img m = some n := by
  obtain ⟨x, rfl, hx⟩ := hh
  rw [columnMapDifference, if_pos hx, firstDifference_of_lowest (mt (rowSpelled_map_iff x).1 hn)
    fun k hk => (rowSpelled_map_iff x).2 (hlow k hk)]
  rfl

theorem columnMapDifference_of_same (hh : mapHeaderSpelled img m) (h : ∀ n, mapEntrySpelled img m n) :
    columnMapDifference img m = none := by
  obtain ⟨x, rfl, hx⟩ := hh
  rw [columnMapDifference, if_pos hx, firstDifference_of_all_spelled fun n => (rowSpelled_map_iff x).2 (h n)]
  rfl

/-! ### A FEATHER or GAIN table against the image -/

/-- The table is VALID and the image's word at `base` is its count. -/
def valueHeaderSpelled (img : Image) (base : Nat) (v : Option ValueTable) : Prop :=
  ∃ x, v = some x ∧ imageRead img base = natHalf x.count

/-- The image's word for value `n` of a table whose header stands at `base` is that value. -/
def valueSpelled (img : Image) (base : Nat) (v : Option ValueTable) (n : Nat) : Prop :=
  ∀ x y, v = some x → x.values[n]? = some y → imageRead img (base + 1 + n) = natHalf y

theorem valueSpelled_some_iff (x : ValueTable) :
    valueSpelled img base (some x) n ↔ ∀ y, x.values[n]? = some y → imageRead img (base + 1 + n) = natHalf y :=
  ⟨fun h y => h x y rfl, fun h _ y hx => by cases hx; exact h y⟩

theorem rowSpelled_values_iff (x : ValueTable) :
    rowSpelled img (base + 1) 1 (x.values.map fun y => [natHalf y]) n ↔ valueSpelled img base (some x) n := by
  simp [rowSpelled, valueSpelled_some_iff]

theorem valueTableDifference_of_header (h : ¬valueHeaderSpelled img base v) :
    valueTableDifference img base v = some (-1) := by
  cases v with
  | none => rfl
  | some x => exact if_neg fun hx => h ⟨x, rfl, hx⟩

theorem valueTableDifference_of_value (hh : valueHeaderSpelled img base v) (hn : ¬valueSpelled img base v n)
    (hlow : ∀ k, k < n → valueSpelled img base v k) : valueTableDifference img base v = some n := by
  obtain ⟨x, rfl, hx⟩ := hh
  rw [valueTableDifference, if_pos hx, firstDifference_of_lowest (mt (rowSpelled_values_iff x).1 hn)
    fun k hk => (rowSpelled_values_iff x).2 (hlow k hk)]
  rfl

theorem valueTableDifference_of_same (hh : valueHeaderSpelled img base v) (h : ∀ n, valueSpelled img base v n) :
    valueTableDifference img base v = none := by
  obtain ⟨x, rfl, hx⟩ := hh
  rw [valueTableDifference, if_pos hx, firstDifference_of_all_spelled fun n => (rowSpelled_values_iff x).2 (h n)]
  rfl

/-! ### The tables in image order -/

variable {t : Tables} {d : Int}

theorem imageDifference_of_columnMap (h : columnMapDifference img t.columnMap = some d) :
    imageDifference img t = some (.columnMap, d) := by
  simp only [imageDifference, h]

theorem imageDifference_of_feather (hm : columnMapDifference img t.columnMap = none)
    (h : valueTableDifference img (featherBase ((t.columnMap.map (·.k)).getD 0)) t.feather = some d) :
    imageDifference img t = some (.feather, d) := by
  simp only [imageDifference, hm, h]

/-- Where the GAIN table's header stands in the image of a working set. -/
def gainStart (t : Tables) : Nat :=
  gainBase ((t.columnMap.map (·.k)).getD 0) ((t.feather.map (·.count)).getD 0)

theorem imageDifference_of_gain (hm : columnMapDifference img t.columnMap = none)
    (hf : valueTableDifference img (featherBase ((t.columnMap.map (·.k)).getD 0)) t.feather = none)
    (h : valueTableDifference img (gainStart t) t.gain = some d) : imageDifference img t = some (.gain, d) := by
  rw [gainStart] at h
  simp only [imageDifference, hm, hf, h]

theorem imageDifference_of_same (hm : columnMapDifference img t.columnMap = none)
    (hf : valueTableDifference img (featherBase ((t.columnMap.map (·.k)).getD 0)) t.feather = none)
    (hg : valueTableDifference img (gainStart t) t.gain = none) : imageDifference img t = none := by
  rw [gainStart] at hg
  simp only [imageDifference, hm, hf, hg]

/-! ### The obligation -/

/-- Settles O33: the takes and the completions by the slot's state, and the differences table by table, each at its header, at its
lowest entry, or not at all. -/
theorem verifyAndBlankCheckReportTheSlot : Obligations.VerifyAndBlankCheckReportTheSlot := by
  refine ⟨fun s body rest i ho hp hb => ⟨fun hc hstate => ?notWritten, fun hc hstate => ?verify, fun hc => ?blankCheck⟩,
    fun s i hrun => ⟨fun hmarker => ?verified, fun hmarker => ?checked⟩, fun image m f g assembly => ?difference⟩
  case notWritten =>
    rw [exec_profileVerify_of_passed ho hc hp hb, verifySlot_of_not_written (s := s.taken rest) hstate]
  case verify =>
    rw [exec_profileVerify_of_passed ho hc hp hb, verifySlot_of_written (s := s.taken rest) hstate]
    rfl
  case blankCheck =>
    rw [exec_profileBlankCheck_of_passed ho hc hp hb]
    rfl
  case verified =>
    rw [exec_profileVerifyComplete_of_marker hrun hmarker]
    exact ⟨fun hsame => by rw [completeVerify_of_same hmarker hsame]; rfl,
      fun id n hd => by rw [completeVerify_of_different hmarker hd]; rfl⟩
  case checked =>
    rw [exec_profileBlankCheckComplete_of_marker hrun hmarker]
    refine ⟨fun hblank => ?_, fun hwritten => ?_, fun htorn hwf => ?_⟩
    · rw [completeBlankCheck_of_blank hmarker (notBlankOffset_of_blank hblank)]
      rfl
    · rw [completeBlankCheck_of_offset hmarker (notBlankOffset_of_written hwritten)]
      rfl
    · obtain ⟨a, hle, hbelow, hfirst, hoffset⟩ := notBlankOffset_of_torn htorn hwf
      refine ⟨a, hle, hbelow, hfirst, ?_⟩
      rw [completeBlankCheck_of_offset hmarker hoffset]
      rfl
  case difference =>
    intro word mapHeader mapEntry mapSame header value same b c first
    have hmap (h : mapSame) : columnMapDifference image m = none := columnMapDifference_of_same h.1 h.2
    have hsame {base : Nat} {v : Option ValueTable} (h : same base v) : valueTableDifference image base v = none :=
      valueTableDifference_of_same h.1 h.2
    refine ⟨fun h => imageDifference_of_columnMap (columnMapDifference_of_header h),
      fun n hh hn hlow => imageDifference_of_columnMap (columnMapDifference_of_entry hh hn hlow),
      fun hm h => imageDifference_of_feather (hmap hm) (valueTableDifference_of_header h),
      fun n hm hh hn hlow => imageDifference_of_feather (hmap hm) (valueTableDifference_of_value hh hn hlow),
      fun hm hf h => imageDifference_of_gain (hmap hm) (hsame hf) (valueTableDifference_of_header h),
      fun n hm hf hh hn hlow => imageDifference_of_gain (hmap hm) (hsame hf) (valueTableDifference_of_value hh hn hlow),
      fun hm hf hg => imageDifference_of_same (hmap hm) (hsame hf) (hsame hg)⟩

end Sys2Proof.Proofs
end

section
/-! PROOF. O30 (R182 to R185): TABLE_PAGE's five checks in order, a FIRST page, a later page, and the entries appended. -/

namespace Sys2Proof.Proofs

open Sys2Proof.Machine

variable {s : State} {body : List Byte} {rest : List (List Byte)} {ps : List Nat} {id : TableId} {p : Page} {a : Assembly}

theorem exec_tablePage (s : State) : exec .tablePage s = execTablePage s := rfl

theorem exec_tablePage_of_params (h : s.offers body rest) (hc : dirCode body = 0x20) (hp : dirParams body = some ps) :
    exec .tablePage s = .next (arbitrate (checkPage body ps (s.taken rest))) := by
  rw [exec_tablePage, execTablePage, takeDirective_of_offers h (by simp [hc]), doTablePage, hp]

/-! ### The checks (R182) -/

theorem tablesMayChange_iff (st : SweepState) : tablesMayChange st = true ↔ st = .idle ∨ st = .ended := by
  simp [tablesMayChange]

theorem readsWorkingSet_iff (s : State) :
    readsWorkingSet s = true ↔ s.store.busy = some .write ∨ s.store.busy = some .verify := by
  simp [readsWorkingSet]

theorem checkPage_of_sweep (hn : 3 ≤ ps.length) (hs : s.sweep.state ≠ .idle ∧ s.sweep.state ≠ .ended) (body : List Byte) :
    checkPage body ps s = replyTo body .wrongState [] s := by
  have hfixed : tablesMayChange s.sweep.state = false := by
    rw [Bool.eq_false_iff, ne_eq, tablesMayChange_iff]
    exact not_or.2 hs
  rw [checkPage, if_neg (Nat.not_lt.2 hn), hfixed]
  rfl

theorem checkPage_of_range (hn : 3 ≤ ps.length) (hs : s.sweep.state = .idle ∨ s.sweep.state = .ended)
    (h : tableIdOf (ps.getD 0 0) = none ∨ 7 < ps.getD 1 0) (body : List Byte) :
    checkPage body ps s = replyTo body .range [] s := by
  have hchange := (tablesMayChange_iff _).2 hs
  rw [checkPage, if_neg (Nat.not_lt.2 hn), hchange, if_neg (by decide)]
  split
  · rfl
  · next t ht => rw [if_pos (h.resolve_left (by rw [ht]; exact Option.some_ne_none t))]

section Identified

variable (hn : 3 ≤ ps.length) (hs : s.sweep.state = .idle ∨ s.sweep.state = .ended)
  (hid : tableIdOf (ps.getD 0 0) = some id) (hflags : ps.getD 1 0 ≤ 7)
include hn hs hid hflags

/-- A page of a table and of known flags has its shape checked, then the store, then is a FIRST page or a later one. -/
theorem checkPage_of_table (body : List Byte) : checkPage body ps s =
    if pageLimit id < (readPage id ps).count ∨ ps.length ≠ pageLength id (readPage id ps).first (readPage id ps).count then
      replyTo body .format [] s
    else if !(readPage id ps).more && readsWorkingSet s then replyTo body .busy [] s
    else if (readPage id ps).first then firstPage body (readPage id ps) s else laterPage body (readPage id ps) s := by
  have hchange := (tablesMayChange_iff _).2 hs
  simp only [checkPage, if_neg (Nat.not_lt.2 hn), hchange, hid, if_neg (Nat.not_lt.2 hflags), Bool.not_true,
    Bool.false_eq_true, if_false]

theorem checkPage_of_format
    (h : pageLimit id < (readPage id ps).count ∨ ps.length ≠ pageLength id (readPage id ps).first (readPage id ps).count)
    (body : List Byte) : checkPage body ps s = replyTo body .format [] s := by
  rw [checkPage_of_table hn hs hid hflags, if_pos h]

variable (hcount : (readPage id ps).count ≤ pageLimit id)
  (hlength : ps.length = pageLength id (readPage id ps).first (readPage id ps).count)
include hcount hlength

/-- A last page is refused while the store may be reading the working set. -/
theorem checkPage_of_busy (hmore : (readPage id ps).more = false)
    (hbusy : s.store.busy = some .write ∨ s.store.busy = some .verify) (body : List Byte) :
    checkPage body ps s = replyTo body .busy [] s := by
  have hshape := not_or.2 ⟨Nat.not_lt.2 hcount, not_not.2 hlength⟩
  have hreads : (!(readPage id ps).more && readsWorkingSet s) = true := by
    rw [hmore, (readsWorkingSet_iff s).2 hbusy]
    rfl
  rw [checkPage_of_table hn hs hid hflags, if_neg hshape, if_pos hreads]

theorem checkPage_of_passed
    (h : (readPage id ps).more = true ∨ s.store.busy ≠ some .write ∧ s.store.busy ≠ some .verify) (body : List Byte) :
    checkPage body ps s =
      if (readPage id ps).first then firstPage body (readPage id ps) s else laterPage body (readPage id ps) s := by
  have hshape := not_or.2 ⟨Nat.not_lt.2 hcount, not_not.2 hlength⟩
  have hfree : ¬(!(readPage id ps).more && readsWorkingSet s) = true := fun hboth => by
    obtain ⟨hlast, hreads⟩ := Bool.and_eq_true_iff.1 hboth
    rcases h with hmore | hbusy
    · rw [hmore] at hlast
      cases hlast
    · exact not_or.2 hbusy ((readsWorkingSet_iff s).1 hreads)
  rw [checkPage_of_table hn hs hid hflags, if_neg hshape, if_neg hfree]

end Identified

/-! ### A FIRST page (R183) and a later one (R184) -/

theorem firstPage_of_excess (h : greatestCount p.table < headerCount p.header) (body : List Byte) :
    firstPage body p s = replyTo body .invalidTable [natWord (tableIdCode p.table), intWord (-1)] (setAssembly none s) :=
  if_pos h

theorem firstPage_of_fits (h : headerCount p.header ≤ greatestCount p.table) (body : List Byte) :
    firstPage body p s = appendPage body p ⟨p.table, p.header, [], p.toggle⟩ s :=
  if_neg (Nat.not_lt.2 h)

theorem laterPage_of_none (h : s.tables.assembly = none) (body : List Byte) (p : Page) :
    laterPage body p s = replyTo body .sequence [] s := by
  rw [laterPage, h]

theorem laterPage_of_other (h : s.tables.assembly = some a) (ht : a.table ≠ p.table) (body : List Byte) :
    laterPage body p s = replyTo body .sequence [] (setAssembly none s) := by
  simp only [laterPage, h, if_pos ht]

theorem laterPage_of_repeated (h : s.tables.assembly = some a) (ht : a.table = p.table) (hg : p.toggle = a.toggle)
    (body : List Byte) : laterPage body p s =
      replyTo body .repeated [natWord a.entries.length, natWord (headerCount a.header)] s := by
  simp only [laterPage, h, if_neg (not_not.2 ht), if_pos hg]

theorem laterPage_of_next (h : s.tables.assembly = some a) (ht : a.table = p.table) (hg : p.toggle ≠ a.toggle)
    (body : List Byte) : laterPage body p s = appendPage body p a s := by
  simp only [laterPage, h, if_neg (not_not.2 ht), if_neg hg]

/-! ### The entries appended (R184 steps 4 and 5, R185) -/

/-- The assembly with a page's entries behind its own. -/
def extended (a : Assembly) (p : Page) : Assembly := { a with entries := a.entries ++ p.entries, toggle := p.toggle }

theorem appendPage_of_excess (h : headerCount a.header < a.entries.length + p.count) (body : List Byte) (s : State) :
    appendPage body p a s = replyTo body .format [] (setAssembly none s) :=
  if_pos h

theorem appendPage_of_more (h : ¬headerCount a.header < a.entries.length + p.count) (hm : p.more = true)
    (body : List Byte) (s : State) : appendPage body p a s =
      replyTo body .done [natWord (extended a p).entries.length, natWord (headerCount (extended a p).header)]
        (setAssembly (some (extended a p)) s) :=
  (if_neg h).trans (if_pos hm)

theorem appendPage_of_last (h : ¬headerCount a.header < a.entries.length + p.count) (hm : ¬p.more = true)
    (body : List Byte) (s : State) : appendPage body p a s = closeAssembly body (extended a p) s :=
  (if_neg h).trans (if_neg hm)

theorem closeAssembly_of_short (h : a.entries.length ≠ headerCount a.header) (body : List Byte) (s : State) :
    closeAssembly body a s = replyTo body .format [] (setAssembly none s) :=
  if_pos h

theorem closeAssembly_of_invalid {n : Int} (h : ¬a.entries.length ≠ headerCount a.header) (hf : assemblyFault a = some n)
    (body : List Byte) (s : State) : closeAssembly body a s =
      replyTo body .invalidTable [natWord (tableIdCode a.table), intWord n] (setAssembly none s) := by
  rw [closeAssembly, if_neg h, hf]

theorem closeAssembly_of_valid (h : ¬a.entries.length ≠ headerCount a.header) (hf : assemblyFault a = none)
    (body : List Byte) (s : State) : closeAssembly body a s =
      replyTo body .done [natWord (tableIdCode a.table), natWord (headerCount a.header),
        natWord (tableValidity (installAssembly a s.tables))] { s with tables := installAssembly a s.tables } := by
  rw [closeAssembly, if_neg h, hf]

/-- The entries' five ends: `answer` is given the result, the words and the tables of the one that comes. -/
def appendEnd {β : Type} (answer : ResultCode → List Word → Tables → β) (p : Page) (a : Assembly) (t : Tables) : β :=
  let b := extended a p
  if headerCount a.header < a.entries.length + p.count then answer .format [] { t with assembly := none }
  else if p.more then answer .done [natWord b.entries.length, natWord (headerCount b.header)] { t with assembly := some b }
  else if b.entries.length ≠ headerCount b.header then answer .format [] { t with assembly := none }
  else
    match assemblyFault b with
    | some n => answer .invalidTable [natWord (tableIdCode b.table), intWord n] { t with assembly := none }
    | none => answer .done [natWord (tableIdCode b.table), natWord (headerCount b.header),
        natWord (tableValidity (installAssembly b t))] (installAssembly b t)

/-- Each end is a reply with new tables, whatever is then made of the state. -/
theorem apply_appendPage {β : Type} (f : State → β) (body : List Byte) (p : Page) (a : Assembly) (s : State) :
    f (appendPage body p a s) =
      appendEnd (fun r ws t => f (replyTo body r ws { s with tables := t })) p a s.tables := by
  by_cases hexcess : headerCount a.header < a.entries.length + p.count
  · rw [appendPage_of_excess hexcess, appendEnd, if_pos hexcess]
    rfl
  rw [appendEnd, if_neg hexcess]
  by_cases hmore : p.more = true
  · rw [appendPage_of_more hexcess hmore, if_pos hmore]
    rfl
  rw [appendPage_of_last hexcess hmore, if_neg hmore]
  by_cases hshort : (extended a p).entries.length ≠ headerCount (extended a p).header
  · rw [closeAssembly_of_short hshort, if_pos hshort]
    rfl
  rw [if_neg hshort]
  cases hfault : assemblyFault (extended a p) with
  | some n =>
    rw [closeAssembly_of_invalid hshort hfault]
    rfl
  | none => rw [closeAssembly_of_valid hshort hfault]

/-- Settles O30: the checks by `checkPage`'s lemmas, a FIRST page and a later one by theirs, and what both do with the entries of a
page that they accept by `apply_appendPage`. -/
theorem tablePageBuildsAndReplacesOneTable : Obligations.TablePageBuildsAndReplacesOneTable := by
  intro s body rest ps id ho hc hp hn answer t p done
  rw [exec_tablePage_of_params ho hc hp]
  have happend (a : Assembly) (ha : a.table = id) :
      Host.Outcome.next (arbitrate (appendPage body p a (s.taken rest))) = done a := by
    subst ha
    exact apply_appendPage (fun t => Host.Outcome.next (arbitrate t)) body p a (s.taken rest)
  refine ⟨fun hs => ?sweep, fun hs => ⟨fun hrange => ?range, fun hid hflags => ⟨fun hshape => ?format,
    fun hcount hlength => ⟨fun hmore hbusy => ?busy, fun hfree => ?passed⟩⟩⟩⟩
  case sweep =>
    rw [checkPage_of_sweep (s := s.taken rest) hn hs]
    rfl
  case range =>
    rw [checkPage_of_range (s := s.taken rest) hn hs hrange]
    rfl
  case format =>
    rw [checkPage_of_format (s := s.taken rest) hn hs hid hflags hshape]
    rfl
  case busy =>
    rw [checkPage_of_busy (s := s.taken rest) hn hs hid hflags hcount hlength hmore hbusy]
    rfl
  case passed =>
    rw [checkPage_of_passed (s := s.taken rest) hn hs hid hflags hcount hlength hfree]
    have hlater (hfirst : p.first = false) : ¬p.first = true := by rw [hfirst]; decide
    refine ⟨fun hfirst hexcess => ?excess, fun hfirst hfits => ?first, fun hfirst hnone => ?closed,
      fun a hfirst ha => ⟨fun htable => ?other, fun htable htoggle => ?repeated, fun htable htoggle => ?next⟩⟩
    case excess =>
      rw [if_pos hfirst, firstPage_of_excess (p := p) hexcess]
      rfl
    case first =>
      rw [if_pos hfirst, firstPage_of_fits (p := p) hfits]
      exact happend _ rfl
    case closed =>
      rw [if_neg (hlater hfirst), laterPage_of_none (s := s.taken rest) hnone]
      rfl
    case other =>
      rw [if_neg (hlater hfirst), laterPage_of_other (s := s.taken rest) (p := p) ha htable]
      rfl
    case repeated =>
      rw [if_neg (hlater hfirst), laterPage_of_repeated (s := s.taken rest) (p := p) ha htable htoggle]
      rfl
    case next =>
      rw [if_neg (hlater hfirst), laterPage_of_next (s := s.taken rest) (p := p) ha htable htoggle]
      exact happend a htable

end Sys2Proof.Proofs
end

section
/-! PROOF. What a command can do to the state, said once: `Kept.exec` takes a property of the state through every command from what
the command's parts do to it, so that a proof of an invariant names only the parts that touch it. -/

namespace Sys2Proof.Proofs

open Sys2Proof.Machine

/-! ### The take of a run leaves every block but the ring and the notes -/

theorem takeRun_eq (s : State) : takeRun s = { s with ring := (takeRun s).ring, notes := (takeRun s).notes } := by
  unfold takeRun beginStarvation
  split
  · rfl
  · dsimp only
    split
    · split <;> rfl
    · rfl

section

variable (s : State)

@[simp] theorem takeRun_power : (takeRun s).power = s.power := by rw [takeRun_eq]
@[simp] theorem takeRun_inlet : (takeRun s).inlet = s.inlet := by rw [takeRun_eq]
@[simp] theorem takeRun_reg : (takeRun s).reg = s.reg := by rw [takeRun_eq]
@[simp] theorem takeRun_placement : (takeRun s).placement = s.placement := by rw [takeRun_eq]
@[simp] theorem takeRun_comp : (takeRun s).comp = s.comp := by rw [takeRun_eq]
@[simp] theorem takeRun_sweep : (takeRun s).sweep = s.sweep := by rw [takeRun_eq]
@[simp] theorem takeRun_dirs : (takeRun s).dirs = s.dirs := by rw [takeRun_eq]
@[simp] theorem takeRun_counters : (takeRun s).counters = s.counters := by rw [takeRun_eq]
@[simp] theorem takeRun_tables : (takeRun s).tables = s.tables := by rw [takeRun_eq]
@[simp] theorem takeRun_store : (takeRun s).store = s.store := by rw [takeRun_eq]
@[simp] theorem takeRun_pending : (takeRun s).pending = s.pending := by rw [takeRun_eq]

end

variable {c : Instr} {P : State → Prop}

/-! ### The sweep side's shared operations -/

/-- The parts of a decided outcome and of an entry to DRAINING: a freed slot, a new coast counter, a change of sweep state within
a sweep, a counted outcome, an examination of the tiles. -/
inductive SweepPart (s : State) : State → Prop
  | freeSlot (i : Fin 3) : SweepPart s (freeSlot i s)
  | coast (n : Nat) : SweepPart s { s with sweep := { s.sweep with coast := n } }
  | changeSweep (st : SweepState) (cause : EndCause) (hst : st ≠ .idle) (hs : s.sweep.state ≠ .idle) :
    SweepPart s (changeSweep st cause s)
  | recordOutcome (r : OutcomeRecord) : SweepPart s (recordOutcome r s)
  | examineTiles : SweepPart s (examineTiles s)

/-- `P` is kept by each part of a decided outcome and of an entry to DRAINING. -/
def SweepClosed (P : State → Prop) : Prop := ∀ s t, SweepPart s t → P s → P t

/-- A fold of an update that keeps a property keeps it. -/
theorem foldl_closed {α : Type} {f : State → α → State} (h : ∀ s a, P s → P (f s a)) :
    ∀ (l : List α) {s : State}, P s → P (l.foldl f s)
  | [], _, hs => hs
  | a :: l, s, hs => foldl_closed h l (h s a hs)

namespace SweepClosed

variable (h : SweepClosed P)

include h

theorem discardSlot {s : State} (i : Fin 3) (hs : P s) : P (discardSlot s i) := by
  unfold Machine.discardSlot
  split
  · exact hs
  · exact h _ _ (.recordOutcome _) (h _ _ (.freeSlot i) hs)

theorem discardCaptured {s : State} (hs : P s) : P (discardCaptured s) :=
  foldl_closed (fun _ i => h.discardSlot i) _ hs

theorem testDrain {s : State} (hs : P s) : P (testDrain s) := by
  rcases testDrain_cases s with ⟨hd, e⟩ | ⟨-, e⟩
  · rw [e]
    refine h _ _ (.changeSweep _ _ (by decide) fun hi => ?_) hs
    simp [drainComplete, hi] at hd
  · rwa [e]

theorem enterDraining (c : EndCause) {s : State} (hi : s.sweep.state ≠ .idle) (hs : P s) : P (enterDraining c s) :=
  h.testDrain (h _ _ .examineTiles (h.discardCaptured (h _ _ (.changeSweep _ _ (by decide) hi) hs)))

theorem followCoast (o : FrameOutcome) (e : CoastEffect) {s : State} (hs : P s) : P (followCoast o e s) := by
  unfold Machine.followCoast
  split
  · split
    · exact h _ _ (.changeSweep _ _ (by decide) (by simp [*])) hs
    · exact hs
  · split
    · split
      · exact h.enterDraining _ (by simp [*]) hs
      · exact h _ _ (.changeSweep _ _ (by decide) (by simp [*])) hs
    · exact hs
  · split
    · split
      · exact h.enterDraining _ (by simp [*]) hs
      · exact hs
    · exact h _ _ (.changeSweep _ _ (by decide) (by simp [*])) hs
    · exact hs
  all_goals exact hs

theorem decideOutcome (r : OutcomeRecord) {s : State} (hs : P s) : P (decideOutcome r s) :=
  h.followCoast _ _ (h _ _ (.recordOutcome r) (h _ _ (.coast _) hs))

end SweepClosed

/-- What capture and registration do to their own blocks and counters. -/
inductive CapturePart (s : State) : State → Prop
  | capture (x : Capture) : CapturePart s { s with capture := x }
  | reg (r : Registration) : CapturePart s { s with reg := r }
  | opensSeen (n : Nat) : CapturePart s { s with counters := { s.counters with opensSeen := saturate16 n } }
  | linesRepaired (n : Nat) : CapturePart s { s with counters := { s.counters with linesRepaired := saturate16 n } }

/-- `P` is kept by what capture and registration do to their own blocks. -/
def CaptureClosed (P : State → Prop) : Prop := ∀ s t, CapturePart s t → P s → P t

/-- What placement, the compositor and the emitter do to their own blocks and counters. -/
inductive CanvasPart (s : State) : State → Prop
  | canvas (p : Placement) (k : Compositor) (ts : List Tile) :
    CanvasPart s { s with placement := p, comp := k, ring := { s.ring with tiles := ts } }
  | run (x : Option Run) : CanvasPart s { s with ring := { s.ring with run := x } }
  | tilesEmitted (n : Nat) : CanvasPart s { s with counters := { s.counters with tilesEmitted := saturate16 n } }
  | takeRun : CanvasPart s (takeRun s)
  | emptyRing : CanvasPart s (emptyRing s)

/-- `P` is kept by what placement, the compositor and the emitter do to their own blocks. -/
def CanvasClosed (P : State → Prop) : Prop := ∀ s t, CanvasPart s t → P s → P t

/-- `P` is kept by what the events of capture and registration are made of: a decided outcome, an entry to DRAINING, an
examination, a tested drain, and what they do to their blocks. -/
structure OutcomeClosed (P : State → Prop) : Prop where
  capturePart : CaptureClosed P
  recordOutcome (r : OutcomeRecord) (s : State) : countsAsComposited r.outcome = false → P s → P (recordOutcome r s)
  decideOutcome (r : OutcomeRecord) (s : State) : P s → P (decideOutcome r s)
  examineTiles (s : State) : P s → P (examineTiles s)
  testDrain (s : State) : P s → P (testDrain s)
  ended (c : EndCause) (s : State) : s.sweep.state ≠ .idle → P s → P (changeSweep .ended c s)
  enterDraining (c : EndCause) (s : State) : capturing s.sweep.state = true → P s → P (enterDraining c s)

/-- `P` is kept by everything the sweep side's events are made of. -/
structure PartsClosed (P : State → Prop) : Prop extends OutcomeClosed P where
  canvasPart : CanvasClosed P

theorem SweepClosed.outcomeClosed (h : SweepClosed P) (hx : CaptureClosed P) : OutcomeClosed P where
  capturePart := hx
  recordOutcome r s _ := h s _ (.recordOutcome r)
  decideOutcome r _ := h.decideOutcome r
  examineTiles s := h s _ .examineTiles
  testDrain _ := h.testDrain
  ended c s hs := h s _ (.changeSweep .ended c (by decide) hs)
  enterDraining c _ hc := h.enterDraining c fun hi => by simp [capturing, hi] at hc

theorem SweepClosed.partsClosed (h : SweepClosed P) (hx : CaptureClosed P) (hk : CanvasClosed P) : PartsClosed P where
  toOutcomeClosed := h.outcomeClosed hx
  canvasPart := hk

theorem capturing_iff (st : SweepState) : capturing st = true ↔ st = .armed ∨ st = .tracking ∨ st = .coasting := by
  simp [capturing]

theorem not_idle_of_capturing {st : SweepState} (h : capturing st = true) : st ≠ .idle := by
  rintro rfl
  simp [capturing] at h

/-- The sweep side's part of every event, each with the condition under which the event comes to it. -/
structure SweepSide (c : Instr) (P : State → Prop) : Prop where
  damageFilling (s : State) : P s → P (damageFilling s)
  captureOpenPacket (body : List Byte) (s : State) : P s → P (captureOpenPacket body s)
  captureLinePacket (body : List Byte) (s : State) : P s → P (captureLinePacket body s)
  captureShutPacket (s : State) : P s → P (captureShutPacket s)
  completeTilePacket (s : State) : P s → P (completeTilePacket s)
  takeRun (s : State) : canTakeRun s = true → P s → P (takeRun s)
  endArmed (s : State) : s.sweep.state = .armed → P s → P (changeSweep .ended .finished (discardCaptured s))
  endRunning (s : State) : s.sweep.state = .tracking ∨ s.sweep.state = .coasting → P s →
    P (enterDraining .finished (discardCaptured s))
  abortSweep (s : State) : sweepRuns s.sweep.state = true → P s → P (abortSweep s)
  takeFrame (s : State) : c = .registrationTake → canTakeFrame s = true → P s → P (takeFrame s)
  registrationEnd (s : State) : canCompleteRegistration s = true → P s → P (registrationEnd s)
  placementEvent (s : State) : c = .placement → canPlace s = true → P s → P (placementEvent s)
  takeComposite (s : State) : canTakeComposite s = true → P s → P (takeComposite s)
  completeComposite (s : State) : c = .compositeComplete → canCompleteComposite s = true → P s → P (completeComposite s)

namespace OutcomeClosed

variable (h : OutcomeClosed P)

include h

theorem freeSlot (i : Fin 3) {s : State} (hs : P s) : P (freeSlot i s) := h.capturePart _ _ (.capture _) hs

theorem setSlot (i : Fin 3) (f : CapturedFrame) {s : State} (hs : P s) : P (setSlot i f s) := h.capturePart _ _ (.capture _) hs

theorem discardSlot {s : State} (i : Fin 3) (hs : P s) : P (discardSlot s i) := by
  unfold Machine.discardSlot
  split
  · exact hs
  · exact h.recordOutcome _ _ rfl (h.freeSlot i hs)

theorem discardCaptured {s : State} (hs : P s) : P (discardCaptured s) :=
  foldl_closed (fun _ i => h.discardSlot i) _ hs

theorem damageFrame (i : Fin 3) {s : State} (hs : P s) : P (damageFrame i s) := by
  unfold Machine.damageFrame
  split
  · exact hs
  · exact h.decideOutcome _ _ (h.freeSlot i hs)

theorem damageFilling {s : State} (hs : P s) : P (damageFilling s) := by
  unfold Machine.damageFilling
  split
  · exact hs
  · exact h.damageFrame _ hs

theorem geometryOutcome {s : State} (hc : capturing s.sweep.state = true) (hs : P s) : P (geometryOutcome s) := by
  have hd := h.discardCaptured (h.recordOutcome { seq := s.capture.seq, outcome := .geometry } s rfl hs)
  unfold Machine.geometryOutcome
  dsimp only
  split
  · exact h.ended _ _ (by simp [*]) hd
  · exact h.enterDraining _ _ (by simpa using hc) hd

theorem captureOpen (f : OpenFields) {s : State} (hs : P s) : P (captureOpen f s) := by
  unfold Machine.captureOpen
  split
  · split
    · split
      · exact h.capturePart _ _ (.capture _) hs
      · exact h.recordOutcome _ s rfl hs
    · exact h.geometryOutcome ‹_› hs
  · exact hs

theorem captureOpenPacket (body : List Byte) {s : State} (hs : P s) : P (captureOpenPacket body s) := by
  have hcount : P (countOpen (readOpen body) s) := h.capturePart _ _ (.capture _) (h.capturePart _ _ (.opensSeen _) hs)
  unfold Machine.captureOpenPacket
  dsimp only
  split
  · exact h.captureOpen _ (h.damageFilling hcount)
  · exact hcount

theorem addLinesRepaired (n : Nat) {s : State} (hs : P s) : P (addLinesRepaired n s) := h.capturePart _ _ (.linesRepaired _) hs

theorem captureLinePacket (body : List Byte) {s : State} (hs : P s) : P (captureLinePacket body s) := by
  unfold Machine.captureLinePacket captureLine
  split
  · exact hs
  · split
    · exact hs
    · dsimp only
      split
      · exact hs
      · split
        · exact h.damageFrame _ hs
        · exact h.addLinesRepaired _ (h.setSlot _ _ hs)

theorem captureShutPacket {s : State} (hs : P s) : P (captureShutPacket s) := by
  unfold Machine.captureShutPacket captureShut
  split
  · exact hs
  · split
    · exact hs
    · dsimp only
      split
      · exact h.damageFrame _ hs
      · exact h.addLinesRepaired _ (h.setSlot _ _ hs)

theorem endArmed {s : State} (ha : s.sweep.state = .armed) (hs : P s) : P (changeSweep .ended .finished (Machine.discardCaptured s)) :=
  h.ended _ _ (by simp [ha]) (h.discardCaptured hs)

theorem endRunning {s : State} (hr : s.sweep.state = .tracking ∨ s.sweep.state = .coasting) (hs : P s) :
    P (Machine.enterDraining .finished (Machine.discardCaptured s)) :=
  h.enterDraining _ _ ((capturing_iff _).2 (by simpa using .inr hr)) (h.discardCaptured hs)

theorem takeWidthLimit {s : State} (hs : P s) : P (takeWidthLimit s) := by
  unfold Machine.takeWidthLimit
  split
  · exact h.enterDraining _ s ((capturing_iff _).2 (.inr (And.left ‹_›))) hs
  · exact hs

theorem refuseFrame (o : FrameOutcome) (i : Fin 3) (f : CapturedFrame) (x : Handover) {s : State} (hs : P s) :
    P (refuseFrame o i f x s) := h.testDrain _ (h.decideOutcome _ _ (h.freeSlot i (h.capturePart _ _ (.reg _) hs)))

theorem completeRegistration (i : Fin 3) (f : CapturedFrame) {s : State} (hs : P s) : P (completeRegistration i f s) := by
  have hend (votes : List Nat) (r : OutcomeRecord) : P (endRegistration i votes r s) :=
    h.testDrain _ (h.decideOutcome r _ (h.freeSlot i (h.capturePart _ _ (.reg _) hs)))
  unfold Machine.completeRegistration
  dsimp only
  split
  · split
    · exact hend _ _
    · exact h.testDrain _ (h.setSlot _ _ (h.capturePart _ _ (.reg _) hs))
  · exact hend _ _

theorem registrationEnd {s : State} (hs : P s) : P (registrationEnd s) := by
  unfold Machine.registrationEnd
  split
  · exact hs
  · exact h.completeRegistration _ _ hs

end OutcomeClosed

namespace PartsClosed

variable (h : PartsClosed P)

include h

theorem work (x : Capture) (r : Registration) (p : Placement) (k : Compositor) (ts : List Tile) (s : State) (hs : P s) :
    P { s with capture := x, reg := r, placement := p, comp := k, ring := { s.ring with tiles := ts } } :=
  h.capturePart _ _ (.capture x) (h.capturePart _ _ (.reg r) (h.canvasPart _ _ (.canvas p k ts) hs))

theorem completeTilePacket {s : State} (hs : P s) : P (completeTilePacket s) := by
  unfold Machine.completeTilePacket completeTileEnd
  split
  · exact hs
  · split
    · exact h.testDrain _ (h.canvasPart _ _ (.run none) (h.work _ _ _ _ _ _ (h.canvasPart _ _ (.tilesEmitted _) hs)))
    · exact h.canvasPart _ _ (.run _) hs

theorem abortSlot {s : State} (i : Fin 3) (hs : P s) : P (abortSlot s i) := by
  unfold Machine.abortSlot
  split
  · exact h.freeSlot i hs
  · exact h.discardSlot i hs

theorem abortSweep {s : State} (hr : sweepRuns s.sweep.state = true) (hs : P s) : P (abortSweep s) := by
  have hfold := foldl_closed (fun _ i => h.abortSlot i) s.capture.order hs
  refine h.ended _ _ ?_ (h.canvasPart _ _ .emptyRing (h.work _ _ _ _ _ (stopRegistration _) (h.work _ _ _ _ _ _ hfold)))
  have hk : (s.capture.order.foldl Machine.abortSlot s).sweep = s.sweep :=
    foldl_keeps Machine.abortSlot (·.sweep) (fun u i => by unfold Machine.abortSlot; split <;> simp) _ s
  simp only [emptyRing_sweep, emptyCompositor_sweep, stopRegistration_sweep, hk]
  simp only [sweepRuns, decide_eq_true_eq] at hr
  exact hr.1

theorem placeFrame (i : Fin 3) (f : CapturedFrame) (o d : Point) (b : Nat) (e g : Int) {s : State} (hs : P s) :
    P (placeFrame i f o d b e g s) := h.work _ _ _ _ _ s hs

theorem takeFrame {s : State} (hs : P s) : P (takeFrame s) := by
  unfold Machine.takeFrame takeSeed takeToRegister
  split
  · exact hs
  · split
    · exact hs
    · split
      · exact h.takeWidthLimit (h.decideOutcome _ _ (h.placeFrame _ _ _ _ _ _ _ (h.work _ _ _ _ _ s hs)))
      · exact h.setSlot _ _ (h.work _ _ _ _ _ s hs)

theorem placeHandover (i : Fin 3) (f : CapturedFrame) (x : Handover) {s : State} (hs : P s) : P (placeHandover i f x s) := by
  unfold Machine.placeHandover
  dsimp only
  split
  · exact h.refuseFrame _ _ _ _ hs
  · split
    · exact h.refuseFrame _ _ _ _ hs
    · split
      · exact h.testDrain _ (h.examineTiles _ (h.takeWidthLimit (h.decideOutcome _ _
          (h.placeFrame _ _ _ _ _ _ _ (h.work _ _ _ _ _ s hs)))))
      · exact h.refuseFrame _ _ _ _ hs

theorem completeComposite {s : State} (hs : P s) : P (completeComposite s) := by
  have hpaint (en : CompositeEntry) : P (paintEntry en s) := by
    unfold paintEntry
    split
    · exact hs
    · exact h.work _ _ _ _ _ s hs
  unfold Machine.completeComposite
  split
  · exact hs
  · rename_i en _ _
    exact h.testDrain _ (h.examineTiles _ (h.work _ _ _ _ _ (paintEntry en s) (hpaint en)))

theorem sweepSide : SweepSide c P where
  damageFilling _ := h.damageFilling
  captureOpenPacket body _ := h.captureOpenPacket body
  captureLinePacket body _ := h.captureLinePacket body
  captureShutPacket _ := h.captureShutPacket
  completeTilePacket _ := h.completeTilePacket
  takeRun s _ := h.canvasPart s _ .takeRun
  endArmed _ := h.endArmed
  endRunning _ := h.endRunning
  abortSweep _ := h.abortSweep
  takeFrame _ _ _ := h.takeFrame
  registrationEnd _ _ := h.registrationEnd
  placementEvent s _ _ hs := by
    unfold Machine.placementEvent
    split
    · exact h.placeHandover _ _ _ hs
    · exact hs
  takeComposite s _ := h.work _ _ _ _ _ s
  completeComposite _ _ _ := h.completeComposite

end PartsClosed

end Sys2Proof.Proofs
end

section
/-! PROOF. What a command can do, continued: the parts of the commands that are not the sweep side's, and every command's effect
taken apart into them. -/

namespace Sys2Proof.Proofs

open Sys2Proof.Machine

variable {c : Instr} {P : State → Prop}

/-! ### The tables a page or a recall may leave (R179, R185) -/

/-- `u` may stand where `t` stood: it is sound where `t` was, and has its three tables where `t` had. -/
def tablesMayBecome (t u : Tables) : Prop := (t.sound → u.sound) ∧ (tableValidity t = 7 → tableValidity u = 7)

theorem tablesMayBecome_refl (t : Tables) : tablesMayBecome t t := ⟨id, id⟩

theorem tablesMayBecome_assembly {t : Tables} {x : Option Assembly}
    (h : t.sound → ∀ a, x = some a → a.header.length = headerWords a.table) :
    tablesMayBecome t { t with assembly := x } :=
  ⟨fun hs => ⟨hs.1, hs.2.1, hs.2.2.1, h hs⟩, id⟩

theorem headerCount_eq_getD {l : List Nat} {n : Nat} (h : l.length = n + 1) : headerCount l = l.getD n 0 := by
  have hne : l ≠ [] := by rintro rfl; simp at h
  rw [headerCount, List.getLastD_eq_getLast?, List.getLast?_eq_getElem?, h, Nat.add_sub_cancel, List.getD_eq_getElem?_getD]

/-- R185: an assembly that is complete and validates gives a table that passes validation. -/
theorem tablesMayBecome_install {t : Tables} {a : Assembly} (h : t.sound → a.header.length = headerWords a.table)
    (hn : a.entries.length = headerCount a.header) (hf : assemblyFault a = none) :
    tablesMayBecome t (installAssembly a t) := by
  obtain ⟨table, header, entries, toggle⟩ := a
  dsimp only at h hn
  cases table <;> dsimp only [headerWords] at h <;> refine ⟨fun hs => ?_, fun hv => ?_⟩
  case columnMap.refine_1 =>
    refine ⟨fun m hm => ?_, hs.2.1, hs.2.2.1, by simp [installAssembly]⟩
    cases hm
    exact ⟨hf, by simpa [assembledColumnMap, headerCount_eq_getD (h hs)] using hn⟩
  case feather.refine_1 =>
    refine ⟨hs.1, fun m hm => ?_, hs.2.2.1, by simp [installAssembly]⟩
    cases hm
    exact ⟨hf, by simpa [assembledValues, headerCount_eq_getD (h hs)] using hn⟩
  case gain.refine_1 =>
    refine ⟨hs.1, hs.2.1, fun m hm => ?_, by simp [installAssembly]⟩
    cases hm
    exact ⟨hf, by simpa [assembledValues, headerCount_eq_getD (h hs)] using hn⟩
  all_goals
    rw [tableValidity_eq_seven_iff] at hv ⊢
    simp [installAssembly, hv]

/-- R194: the tables of a recalled image are legal, each with as many entries as its header counts. -/
theorem recallImage_ok {img : Image} {m : ColumnMap} {f g : ValueTable} (h : recallImage img = .ok (m, f, g)) :
    m.valid ∧ f.validFeather ∧ g.validGain := by
  unfold recallImage at h
  dsimp only at h
  split at h
  · cases h
  · split at h
    · cases h
    · split at h
      · cases h
      · cases h
        exact ⟨⟨‹_›, by simp [imageColumnMap]⟩, ⟨‹_›, by simp [imageValueTable]⟩, ⟨‹_›, by simp [imageValueTable]⟩⟩

theorem tablesMayBecome_recalled {t : Tables} {img : Image} {m : ColumnMap} {f g : ValueTable}
    (h : recallImage img = .ok (m, f, g)) :
    tablesMayBecome t { t with columnMap := some m, feather := some f, gain := some g } := by
  obtain ⟨hm, hf, hg⟩ := recallImage_ok h
  exact ⟨fun hs => ⟨fun _ e => by cases e; exact hm, fun _ e => by cases e; exact hf, fun _ e => by cases e; exact hg,
    hs.2.2.2⟩, fun _ => rfl⟩

theorem abortSweep_dirs (s : State) : (abortSweep s).dirs = s.dirs := by
  unfold Machine.abortSweep
  simp only [changeSweep_dirs, emptyRing_dirs, emptyCompositor_dirs, stopRegistration_dirs]
  exact foldl_keeps abortSlot (·.dirs) (fun u i => by unfold abortSlot; split <;> simp) _ s

/-- R181: a FIRST page of the required length holds a whole header. -/
theorem readPage_header {t : TableId} {ps : List Nat} {n : Nat} (hf : (readPage t ps).first = true)
    (hn : ps.length = pageLength t (readPage t ps).first n) : (readPage t ps).header.length = headerWords t := by
  rw [hf, pageLength, if_pos rfl] at hn
  replace hf : (ps.getD 1 0).testBit 0 = true := hf
  simp only [readPage, hf, if_true, List.length_take, List.length_drop]
  omega

theorem marker_isSome_of_inProgress {op : ProfileOp} {s : State} (hm : inProgress op s = true) :
    s.store.marker.isSome = true := by
  unfold inProgress at hm
  split at hm
  · cases hm
  · simp [*]

/-- R192: the take of ERASE_ALL is the start of an operation on slot 0, worn once, with the default NONE. -/
theorem beginEraseAll_eq (body : List Byte) (s : State) :
    let worn := setProfileSlot 0 (wornOnce (s.store.slots.get 0)) s
    beginEraseAll body s =
      beginOperation body 0 .eraseAll { worn with store := { worn.store with defaultSlot := none } } := rfl

theorem completeEraseAll_eq (s : State) : completeEraseAll s =
    storeReply 0x36 .done (s.store.slots.all.map fun p => natWord p.wear)
      (clearMarker { s with store := { s.store with isProtected := false } }) := rfl

/-! ### What the receiver may keep (R6, R7) -/

theorem two_le_of_lengthPermitted {kind : PacketKind} {n : Nat} (h : lengthPermitted kind n = true) : 2 ≤ n := by
  cases kind <;> simp only [lengthPermitted, decide_eq_true_eq] at h <;> omega

theorem lengthPermitted_of_testHeader {header : List Byte} {kind : PacketKind} {n : Nat}
    (h : testHeader header = .ok (kind, n)) : lengthPermitted kind n = true := by
  unfold testHeader at h
  split at h
  · cases h
  · split at h
    · cases h
    · split at h
      · cases h
      · split at h <;> cases h
        assumption

/-- What the search of R6 can come to: a header with a permitted length, or fewer than six bytes kept. -/
theorem huntSearch_cases (bytes : List Byte) :
    (∃ kind n rest, huntSearch bytes = .inl (kind, n, rest) ∧ lengthPermitted kind n = true) ∨
      ∃ rest, huntSearch bytes = .inr rest ∧ rest.length ≤ 5 := by
  induction bytes with
  | nil => exact .inr ⟨[], rfl, Nat.zero_le _⟩
  | cons b rest ih =>
    unfold huntSearch
    split
    · exact .inr ⟨_, rfl, by simpa using Nat.succ_le_of_lt ‹_›⟩
    · split
      · exact .inl ⟨_, _, _, rfl, lengthPermitted_of_testHeader ‹_›⟩
      · exact ih

theorem kept_locked {kind : PacketKind} {n : Nat} (h : lengthPermitted kind n = true) {received : List Byte}
    (hr : received.length < n) : Inlet.kept ⟨.locked (some ⟨kind, n, received⟩), 0⟩ := ⟨h, hr⟩

/-! ### Every part of a command -/

/-- The parts of the command `c` that are not the sweep side's, each with the condition under which the command comes to it. -/
inductive CommandPart (c : Instr) (s : State) : State → Prop
  | pinReset (hc : c = .pinReset) : CommandPart c s { s with
      power := if s.power = .off then .off else .inReset
      inlet := { s.inlet with framing := .hunt [] }
      outlet := { s.outlet with sending := none } }
  | powerOn (high : Bool) (hc : c = .resetRelease high) : CommandPart c s (powerOn high s)
  | powerLoss (hc : c = .powerLoss) : CommandPart c s
      (.cold .off s.mode s.holdLine .empty { s.store with busy := none, tag := 0 } s.freeIndex s.pending)
  | arbitrate : CommandPart c s (arbitrate s)
  | holdLine (b : Bool) : CommandPart c s { s with holdLine := b }
  | setFraming (f : Framing) (n : Nat) (hf : Inlet.kept ⟨f, 0⟩) : CommandPart c s (setFraming f n s)
  | idleLane (n : Nat) : CommandPart c s (idleLane n s)
  | forwardTail : CommandPart c s { s with forward := s.forward.tail }
  | noteTail : CommandPart c s (fill { s with notes := { s.notes with queue := s.notes.queue.tail } })
  | raise (k : EventKind) (ws : List Word) : CommandPart c s (raise k ws s)
  | syncLosses (n : Nat) : CommandPart c s { s with counters := { s.counters with syncLosses := saturate16 n } }
  | directivesDropped (n : Nat) : CommandPart c s { s with counters := { s.counters with directivesDropped := saturate16 n } }
  | passthroughDrops (n : Nat) : CommandPart c s { s with counters := { s.counters with passthroughDrops := saturate16 n } }
  | zeroCounters : CommandPart c s { s with counters := .zero }
  | forwardAppend (p : Packet) (hl : s.forward.length < forwardRoom) : CommandPart c s { s with forward := s.forward ++ [p] }
  | queueAppend (body : List Byte) (hl : s.dirs.queue.length < directiveRoom) :
    CommandPart c s { s with dirs := { s.dirs with queue := s.dirs.queue ++ [body] } }
  | popDirective : CommandPart c s (popDirective s)
  | replyTo (body : List Byte) (r : ResultCode) (ws : List Word) (hw : s.dirs.replyWaiting = false) :
    CommandPart c s (replyTo body r ws s)
  | setMasks (body : List Byte) (n : Nat) (ws : List Word) (hw : s.dirs.replyWaiting = false) :
    CommandPart c s (Machine.replyTo body .done ws { s with notes := { s.notes with unmasked := masksOf n } })
  | resetEngine (hc : c = .resetEngine) : CommandPart c s (resetUnits (resetBlocks s))
  | armSweep (d : Direction) (ps : List Nat) (hc : c = .sweepArm) (hs : s.sweep.state = .idle)
      (hv : tableValidity s.tables = 7) :
    CommandPart c s (armSweep (armedParams d (mapWidth (workingMap s.tables)) ps) s)
  | releaseSweep (hc : c = .sweepRelease) (hs : s.sweep.state = .ended) : CommandPart c s (releaseSweep s)
  | credits (n : Nat) : CommandPart c s { s with ring := { s.ring with credits := min 255 n } }
  | tables (ts : Tables) (hm : tablesMayChange s.sweep.state = true) (ht : tablesMayBecome s.tables ts) :
    CommandPart c s { s with tables := ts }
  | wearSlot (i : Fin 4) : CommandPart c s (setProfileSlot i (wornOnce (s.store.slots.get i)) s)
  | eraseSlot (i : Fin 4) : CommandPart c s (setProfileSlot i (erasedSlot (s.store.slots.get i)) s)
  | writeSlot (i : Fin 4) (ws : List Half) : CommandPart c s (setProfileSlot i
      { s.store.slots.get i with state := .written, image := imageOfWords ws } s)
  | protection (b : Bool) : CommandPart c s { s with store := { s.store with isProtected := b } }
  | defaultSlot (d : Option (Fin 4)) : CommandPart c s { s with store := { s.store with defaultSlot := d } }
  | beginOperation (body : List Byte) (i : Fin 4) (op : ProfileOp) (hb : s.store.busy = none) :
    CommandPart c s (beginOperation body i op s)
  | moveMarker (m : Marker) (hm : s.store.marker.isSome = true) :
    CommandPart c s { s with store := { s.store with marker := some m } }
  | storeReply (code : Byte) (r : ResultCode) (ws : List Word) (hm : s.store.marker.isSome = true) :
    CommandPart c s (storeReply code r ws (clearMarker s))

/-- `P` is kept by every part of the command `c`. -/
structure Kept (c : Instr) (P : State → Prop) : Prop extends SweepSide c P where
  parts (s t : State) : CommandPart c s t → P s → P t

namespace Kept

variable (h : Kept c P)

include h

theorem ofEvent {enabled : State → Bool} {effect : State → State} {s t : State} (ht : event enabled effect s = .next t)
    (hs : P s) (he : s.power = .running → enabled s = true → P (effect s)) : P t := by
  rcases event_cases ht with ⟨hp, hen, rfl⟩ | rfl
  · exact h.parts _ _ .arbitrate (he hp hen)
  · exact hs

theorem ofTake {is : Byte → Bool} {act : List Byte → State → State} {s t : State} (ht : takeDirective is act s = .next t)
    (hs : P s) (hact : ∀ body u, u.dirs.replyWaiting = false → P u → P (act body u)) : P t := by
  refine h.ofEvent ht hs fun _ hen => hact _ _ ?_ (h.parts _ _ .popDirective hs)
  simp only [canTake, Bool.and_eq_true, Bool.not_eq_true'] at hen
  simpa using hen.1

theorem ofParams {n : Nat} {act : List Nat → State → State} {body : List Byte} {s : State} (hw : s.dirs.replyWaiting = false)
    (hs : P s) (hact : ∀ ps, P (act ps s)) : P (withParams n body act s) := by
  unfold withParams
  split
  · exact h.parts _ _ (.replyTo _ _ _ hw) hs
  · split
    · exact hact _
    · exact h.parts _ _ (.replyTo _ _ _ hw) hs

theorem ofChecks {n : Nat} {service unprotected : Bool} {act : List Nat → State → State} {body : List Byte} {s : State}
    (hw : s.dirs.replyWaiting = false) (hs : P s) (hact : s.store.busy = none → ∀ ps, P (act ps s)) :
    P (profileChecks n service unprotected body act s) := by
  refine h.ofParams hw hs fun ps => ?_
  split
  · exact h.parts _ _ (.replyTo _ _ _ hw) hs
  · split
    · exact h.parts _ _ (.replyTo _ _ _ hw) hs
    · split
      · exact h.parts _ _ (.replyTo _ _ _ hw) hs
      · exact hact (by simpa using ‹¬s.store.busy.isSome = true›) ps

theorem ofSlot {act : Fin 4 → State → State} {body : List Byte} {ps : List Nat} {s : State}
    (hw : s.dirs.replyWaiting = false) (hs : P s) (hact : ∀ i, P (act i s)) : P (withSlot body ps act s) := by
  unfold withSlot
  split
  · exact hact _
  · exact h.parts _ _ (.replyTo _ _ _ hw) hs

/-! ### The effects of the commands -/

theorem huntStep (bytes : List Byte) {s : State} (hs : P s) : P (huntStep bytes s) := by
  unfold Machine.huntStep
  rcases huntSearch_cases (huntBytes s ++ bytes) with ⟨kind, n, rest, e, hl⟩ | ⟨rest, e, hl⟩ <;> rw [e]
  · refine h.parts _ _ (.setFraming _ _ (kept_locked hl ?_)) hs
    have := two_le_of_lengthPermitted hl
    simp only [List.length_take]
    omega
  · exact h.parts _ _ (.setFraming _ _ hl) hs

theorem testNextHeader {header : List Byte} (hn : header.length = 6) {s : State} (hs : P s) :
    P (testNextHeader header s) := by
  unfold Machine.testNextHeader loseSync
  split
  · have hl := lengthPermitted_of_testHeader ‹_›
    exact h.parts _ _ (.setFraming _ _ (kept_locked hl (Nat.lt_of_lt_of_le Nat.zero_lt_two (two_le_of_lengthPermitted hl)))) hs
  · have hl : (header.drop 1).length ≤ 5 := by simp [hn]
    exact h.damageFilling _ (h.parts _ _ (.syncLosses _) (h.parts _ _ (.raise _ _) (h.parts _ _ (.setFraming _ _ hl) hs)))

theorem offerForward (p : Packet) {s : State} (hs : P s) : P (offerForward p s) := by
  unfold Machine.offerForward
  split
  · exact h.parts _ _ (.forwardAppend p ‹_›) hs
  · exact h.parts _ _ (.passthroughDrops _) (h.parts _ _ (.raise _ _) hs)

theorem queueDirective (body : List Byte) {s : State} (hs : P s) : P (queueDirective body s) := by
  unfold Machine.queueDirective
  split
  · exact h.parts _ _ (.queueAppend body ‹_›) hs
  · exact h.parts _ _ (.raise _ _) (h.parts _ _ (.directivesDropped _) hs)

theorem receivePacket (body : List Byte) {s : State} (hs : P s) : P (receivePacket body s) :=
  h.parts _ _ (.setFraming _ _ trivial) hs

theorem completePacket (p : Sending) {s : State} (hs : P s) : P (completePacket p s) := by
  unfold Machine.completePacket
  split
  · split
    · exact hs
    · exact h.parts _ _ .forwardTail hs
  · split
    · exact hs
    · exact h.parts _ _ .noteTail hs
  · exact h.completeTilePacket s hs

theorem outletComplete {s : State} (hs : P s) : P (outletComplete s) := by
  unfold Machine.outletComplete
  split
  · exact hs
  · exact h.completePacket _ (h.parts _ _ (.idleLane _) hs)

theorem checkArm (hc : c = .sweepArm) (body : List Byte) (ps : List Nat) {s : State} (hw : s.dirs.replyWaiting = false)
    (hs : P s) : P (checkArm body ps s) := by
  unfold Machine.checkArm
  split
  · exact h.parts _ _ (.replyTo _ _ _ hw) hs
  · split
    · exact h.parts _ _ (.replyTo _ _ _ hw) hs
    · split
      · exact h.parts _ _ (.replyTo _ _ _ hw) hs
      · refine h.parts _ _ (.replyTo _ _ _ (by simpa [Machine.armSweep] using hw)) (h.parts _ _ (.armSweep _ _ hc ?_ ?_) hs)
        · exact not_not.1 ‹_›
        · exact not_not.1 ‹_›

theorem endSweep (body : List Byte) {s : State} (hw : s.dirs.replyWaiting = false) (hs : P s) : P (endSweep body s) := by
  unfold Machine.endSweep sweepDone
  split
  · exact h.parts _ _ (.replyTo _ _ _ (by simpa using hw)) (h.endArmed s ‹_› hs)
  · exact h.parts _ _ (.replyTo _ _ _ (by simpa using hw)) (h.endRunning s (.inl ‹_›) hs)
  · exact h.parts _ _ (.replyTo _ _ _ (by simpa using hw)) (h.endRunning s (.inr ‹_›) hs)
  all_goals exact h.parts _ _ (.replyTo _ _ _ hw) hs

theorem sweepAbort (body : List Byte) {s : State} (hw : s.dirs.replyWaiting = false) (hs : P s) :
    P (doSweepAbort body s) := by
  refine h.ofParams hw hs fun _ => ?_
  split
  · exact h.parts _ _ (.replyTo _ _ _ (by rw [abortSweep_dirs]; exact hw)) (h.abortSweep s ‹_› hs)
  · exact h.parts _ _ (.replyTo _ _ _ hw) hs

theorem appendPage (body : List Byte) (p : Page) (a : Assembly) {s : State} (hw : s.dirs.replyWaiting = false)
    (hm : tablesMayChange s.sweep.state = true) (hs : P s) (hh : s.tables.sound → a.header.length = headerWords a.table) :
    P (appendPage body p a s) := by
  have reply {r : ResultCode} {ws : List Word} {t : Tables} (ht : tablesMayBecome s.tables t) :
      P (Machine.replyTo body r ws { s with tables := t }) := h.parts _ _ (.replyTo _ _ _ hw) (h.parts _ _ (.tables t hm ht) hs)
  have closed : tablesMayBecome s.tables { s.tables with assembly := none } :=
    tablesMayBecome_assembly fun _ _ e => by cases e
  rw [apply_appendPage P]
  unfold appendEnd
  dsimp only
  split
  · exact reply closed
  · split
    · refine reply (tablesMayBecome_assembly fun hs a' e => ?_)
      cases e
      exact hh hs
    · split
      · exact reply closed
      · split
        · exact reply closed
        · exact reply (tablesMayBecome_install hh (not_not.1 ‹_›) ‹_›)

theorem laterPage (body : List Byte) (p : Page) {s : State} (hw : s.dirs.replyWaiting = false)
    (hm : tablesMayChange s.sweep.state = true) (hs : P s) : P (laterPage body p s) := by
  cases ha : s.tables.assembly with
  | none =>
    rw [laterPage_of_none ha]
    exact h.parts _ _ (.replyTo _ _ _ hw) hs
  | some a =>
    by_cases ht : a.table = p.table
    · by_cases hg : p.toggle = a.toggle
      · rw [laterPage_of_repeated ha ht hg]
        exact h.parts _ _ (.replyTo _ _ _ hw) hs
      · rw [laterPage_of_next ha ht hg]
        exact h.appendPage body p a hw hm hs fun hsound => hsound.2.2.2 a ha
    · rw [laterPage_of_other ha ht]
      exact h.parts _ _ (.replyTo _ _ _ hw) (h.parts _ _ (.tables _ hm (tablesMayBecome_assembly fun _ _ e => by cases e)) hs)

theorem firstPage (body : List Byte) (p : Page) {s : State} (hw : s.dirs.replyWaiting = false)
    (hm : tablesMayChange s.sweep.state = true) (hs : P s) (hh : p.header.length = headerWords p.table) :
    P (firstPage body p s) := by
  by_cases hx : greatestCount p.table < headerCount p.header
  · rw [firstPage_of_excess hx]
    exact h.parts _ _ (.replyTo _ _ _ hw) (h.parts _ _ (.tables _ hm (tablesMayBecome_assembly fun _ _ e => by cases e)) hs)
  · rw [firstPage_of_fits (Nat.not_lt.1 hx)]
    exact h.appendPage body p _ hw hm hs fun _ => hh

theorem checkPage (body : List Byte) (ps : List Nat) {s : State} (hw : s.dirs.replyWaiting = false) (hs : P s) :
    P (checkPage body ps s) := by
  have refuse (r : ResultCode) : P (Machine.replyTo body r [] s) := h.parts _ _ (.replyTo _ _ _ hw) hs
  unfold Machine.checkPage
  split
  · exact refuse _
  · split
    · exact refuse _
    · split
      · exact refuse _
      · split
        · exact refuse _
        · dsimp only
          split
          · exact refuse _
          · split
            · exact refuse _
            · have hm : tablesMayChange s.sweep.state = true := by simp_all
              split
              · have hn := not_not.1 (not_or.1 ‹¬(_ ∨ _)›).2
                exact h.firstPage body _ hw hm hs (readPage_header ‹_› hn)
              · exact h.laterPage body _ hw hm hs

theorem tablePage (body : List Byte) {s : State} (hw : s.dirs.replyWaiting = false) (hs : P s) : P (doTablePage body s) := by
  unfold doTablePage
  split
  · exact h.parts _ _ (.replyTo _ _ _ hw) hs
  · exact h.checkPage body _ hw hs

theorem recallSlot (body : List Byte) (i : Fin 4) {s : State} (hw : s.dirs.replyWaiting = false) (hs : P s) :
    P (recallSlot body i s) := by
  unfold Machine.recallSlot
  split
  · exact h.parts _ _ (.replyTo _ _ _ hw) hs
  · split
    · exact h.parts _ _ (.replyTo _ _ _ hw) hs
    · split
      · exact h.parts _ _ (.replyTo _ _ _ hw) hs
      · exact h.parts _ _ (.replyTo _ _ _ hw) (h.parts _ _ (.tables _ (by simp_all) (tablesMayBecome_recalled ‹_›)) hs)

theorem eraseProfile (body : List Byte) (i : Fin 4) {s : State} (hw : s.dirs.replyWaiting = false)
    (hb : s.store.busy = none) (hs : P s) : P (Machine.eraseSlot body i s) := by
  unfold Machine.eraseSlot
  dsimp only
  split
  · exact h.parts _ _ (.replyTo _ _ _ hw) hs
  · exact h.parts _ _ (.beginOperation body i _ hb) (h.parts _ _ (.wearSlot i) hs)

theorem writeProfile (body : List Byte) (i : Fin 4) {s : State} (hw : s.dirs.replyWaiting = false)
    (hb : s.store.busy = none) (hs : P s) : P (Machine.writeSlot body i s) := by
  unfold Machine.writeSlot
  split
  · exact h.parts _ _ (.replyTo _ _ _ hw) hs
  · split
    · exact h.parts _ _ (.replyTo _ _ _ hw) hs
    · exact h.parts _ _ (.beginOperation body i _ hb) hs

theorem verifyProfile (body : List Byte) (i : Fin 4) {s : State} (hw : s.dirs.replyWaiting = false)
    (hb : s.store.busy = none) (hs : P s) : P (verifySlot body i s) := by
  unfold verifySlot
  split
  · exact h.parts _ _ (.replyTo _ _ _ hw) hs
  · exact h.parts _ _ (.beginOperation body i _ hb) hs

theorem setDefault (body : List Byte) (n : Nat) {s : State} (hw : s.dirs.replyWaiting = false) (hs : P s) :
    P (setDefault body n s) := by
  unfold Machine.setDefault
  split
  · exact h.parts _ _ (.replyTo _ _ _ hw) (h.parts _ _ (.defaultSlot _) hs)
  · split
    · exact h.parts _ _ (.replyTo _ _ _ hw) (h.parts _ _ (.defaultSlot _) hs)
    · exact h.parts _ _ (.replyTo _ _ _ hw) hs

theorem beginEraseAll (body : List Byte) {s : State} (hb : s.store.busy = none) (hs : P s) : P (beginEraseAll body s) := by
  rw [beginEraseAll_eq]
  exact h.parts _ _ (.beginOperation body 0 .eraseAll hb) (h.parts _ _ (.defaultSlot none) (h.parts _ _ (.wearSlot 0) hs))

theorem startStage (i : Fin 4) {s : State} (hm : s.store.marker.isSome = true) (hs : P s) : P (startStage i s) :=
  h.parts _ _ (.moveMarker _ hm) (h.parts _ _ (.wearSlot i) hs)

theorem endStage {s : State} (hm : s.store.marker.isSome = true) (hs : P s) : P (endStage s) := by
  have herased := h.parts _ _ (.eraseSlot (markedSlot s)) hs
  unfold Machine.endStage
  dsimp only
  split
  · exact h.startStage 1 hm herased
  · exact h.startStage 2 hm herased
  · exact h.startStage 3 hm herased
  · rw [completeEraseAll_eq]
    exact h.parts _ _ (.storeReply _ _ _ hm) (h.parts _ _ (.protection false) herased)

end Kept

/-- Every part of a command keeps `P`, so the command does. -/
theorem Kept.exec (h : Kept c P) {s t : State} (ht : exec c s = .next t) (hs : P s) : P t := by
  cases c with
  | pinReset => cases ht; exact h.parts _ _ (.pinReset rfl) hs
  | resetRelease high => cases ht; exact h.parts _ _ (.powerOn high rfl) hs
  | powerLoss => cases ht; exact h.parts _ _ (.powerLoss rfl) hs
  | huntLock bytes => exact h.ofEvent (show execHuntLock bytes s = .next t from ht) hs fun _ _ => h.huntStep bytes hs
  | syncLoss header =>
    refine h.ofEvent (show execSyncLoss header s = .next t from ht) hs fun _ he => h.testNextHeader ?_ hs
    simp only [Bool.and_eq_true, decide_eq_true_eq] at he
    exact he.1
  | openPacket body =>
    exact h.ofEvent (show execOpen body s = .next t from ht) hs fun _ _ =>
      h.offerForward _ (h.parts _ _ .arbitrate (h.captureOpenPacket body _ (h.receivePacket body hs)))
  | linePacket body =>
    exact h.ofEvent (show execLine body s = .next t from ht) hs fun _ _ =>
      h.captureLinePacket body _ (h.offerForward _ (h.receivePacket body hs))
  | shutPacket body =>
    exact h.ofEvent (show execShut body s = .next t from ht) hs fun _ _ =>
      h.captureShutPacket _ (h.offerForward _ (h.receivePacket body hs))
  | dirPacket body =>
    exact h.ofEvent (show execDir body s = .next t from ht) hs fun _ _ =>
      h.queueDirective body (h.receivePacket body hs)
  | outletHold b => cases ht; exact h.parts _ _ .arbitrate (h.parts _ _ (.holdLine b) hs)
  | outletPacketComplete => exact h.ofEvent (show execOutletPacketComplete s = .next t from ht) hs fun _ _ => h.outletComplete hs
  | tileendComplete => exact h.ofEvent (show execTileendComplete s = .next t from ht) hs fun _ _ => h.outletComplete hs
  | status =>
    exact h.ofTake (show execStatus s = .next t from ht) hs fun body u hw hu =>
      h.ofParams hw hu fun _ => h.parts _ _ (.replyTo _ _ _ hw) hu
  | eventMask =>
    refine h.ofTake (show execEventMask s = .next t from ht) hs fun body u hw hu => h.ofParams hw hu fun ps => ?_
    unfold Machine.setMasks
    split
    · exact h.parts _ _ (.replyTo _ _ _ hw) hu
    · exact h.parts _ _ (.setMasks _ _ _ hw) hu
  | counters =>
    refine h.ofTake (show execCounters s = .next t from ht) hs fun body u hw hu => h.ofParams hw hu fun ps => ?_
    unfold readCounters
    split
    · exact h.parts _ _ (.replyTo _ _ _ hw) hu
    · split
      · exact h.parts _ _ (.replyTo _ _ _ hw) (h.parts _ _ .zeroCounters hu)
      · exact h.parts _ _ (.replyTo _ _ _ hw) hu
  | resetEngine =>
    exact h.ofTake (show execResetEngine s = .next t from ht) hs fun body u hw hu =>
      h.ofParams hw hu fun _ => h.parts _ _ (.replyTo _ _ _ rfl) (h.parts _ _ (.resetEngine rfl) hu)
  | sweepArm =>
    exact h.ofTake (show execSweepArm s = .next t from ht) hs fun body u hw hu =>
      h.ofParams hw hu fun ps => h.checkArm rfl body ps hw hu
  | sweepEnd =>
    exact h.ofTake (show execSweepEnd s = .next t from ht) hs fun body u hw hu =>
      h.ofParams hw hu fun _ => h.endSweep body hw hu
  | sweepAbort => exact h.ofTake (show execSweepAbort s = .next t from ht) hs fun body u hw hu => h.sweepAbort body hw hu
  | sweepRelease =>
    refine h.ofTake (show execSweepRelease s = .next t from ht) hs fun body u hw hu => h.ofParams hw hu fun _ => ?_
    split
    · exact h.parts _ _ (.replyTo _ _ _ hw) (h.parts _ _ (.releaseSweep rfl ‹_›) hu)
    · exact h.parts _ _ (.replyTo _ _ _ hw) hu
  | grant =>
    exact h.ofTake (show execGrant s = .next t from ht) hs fun body u hw hu =>
      h.ofParams hw hu fun ps => h.parts _ _ (.replyTo _ _ _ hw) (h.parts _ _ (.credits _) hu)
  | tablePage => exact h.ofTake (show execTablePage s = .next t from ht) hs fun body u hw hu => h.tablePage body hw hu
  | profileRecall =>
    exact h.ofTake (show execProfileRecall s = .next t from ht) hs fun body u hw hu =>
      h.ofChecks hw hu fun _ ps => h.ofSlot hw hu fun i => h.recallSlot body i hw hu
  | profileErase =>
    exact h.ofTake (show execProfileErase s = .next t from ht) hs fun body u hw hu =>
      h.ofChecks hw hu fun hb ps => h.ofSlot hw hu fun i => h.eraseProfile body i hw hb hu
  | profileWrite =>
    exact h.ofTake (show execProfileWrite s = .next t from ht) hs fun body u hw hu =>
      h.ofChecks hw hu fun hb ps => h.ofSlot hw hu fun i => h.writeProfile body i hw hb hu
  | profileVerify =>
    exact h.ofTake (show execProfileVerify s = .next t from ht) hs fun body u hw hu =>
      h.ofChecks hw hu fun hb ps => h.ofSlot hw hu fun i => h.verifyProfile body i hw hb hu
  | profileBlankCheck =>
    exact h.ofTake (show execProfileBlankCheck s = .next t from ht) hs fun body u hw hu =>
      h.ofChecks hw hu fun hb ps => h.ofSlot hw hu fun i => h.parts _ _ (.beginOperation body i _ hb) hu
  | profileProtect =>
    exact h.ofTake (show execProfileProtect s = .next t from ht) hs fun body u hw hu =>
      h.ofChecks hw hu fun _ ps => h.parts _ _ (.replyTo _ _ _ hw) (h.parts _ _ (.protection true) hu)
  | profileEraseAll =>
    exact h.ofTake (show execProfileEraseAll s = .next t from ht) hs fun body u hw hu =>
      h.ofChecks hw hu fun hb ps => h.beginEraseAll body hb hu
  | profileDefault =>
    exact h.ofTake (show execProfileDefault s = .next t from ht) hs fun body u hw hu =>
      h.ofChecks hw hu fun _ ps => h.setDefault body _ hw hu
  | profileInfo =>
    exact h.ofTake (show execProfileInfo s = .next t from ht) hs fun body u hw hu =>
      h.ofChecks hw hu fun _ ps => h.parts _ _ (.replyTo _ _ _ hw) hu
  | unknownDirective =>
    exact h.ofTake (show execUnknownDirective s = .next t from ht) hs fun body u hw hu =>
      h.parts _ _ (.replyTo _ _ _ hw) hu
  | profileEraseComplete =>
    exact h.ofEvent (show execProfileEraseComplete s = .next t from ht) hs fun _ hm =>
      h.parts _ _ (.storeReply _ _ _ (marker_isSome_of_inProgress hm)) (h.parts _ _ (.eraseSlot _) hs)
  | profileWriteComplete =>
    exact h.ofEvent (show execProfileWriteComplete s = .next t from ht) hs fun _ hm =>
      h.parts _ _ (.storeReply _ _ _ (marker_isSome_of_inProgress hm)) (h.parts _ _ (.writeSlot _ _) hs)
  | profileVerifyComplete =>
    refine h.ofEvent (show execProfileVerifyComplete s = .next t from ht) hs fun _ hm => ?_
    unfold completeVerify
    dsimp only
    split <;> exact h.parts _ _ (.storeReply _ _ _ (marker_isSome_of_inProgress hm)) hs
  | profileBlankCheckComplete =>
    refine h.ofEvent (show execProfileBlankCheckComplete s = .next t from ht) hs fun _ hm => ?_
    unfold completeBlankCheck
    dsimp only
    split <;> exact h.parts _ _ (.storeReply _ _ _ (marker_isSome_of_inProgress hm)) hs
  | eraseAllStageEnd =>
    exact h.ofEvent (show execEraseAllStageEnd s = .next t from ht) hs fun _ hm =>
      h.endStage (marker_isSome_of_inProgress hm) hs
  | registrationTake => exact h.ofEvent (show execRegistrationTake s = .next t from ht) hs fun _ he => h.takeFrame s rfl he hs
  | registrationComplete =>
    exact h.ofEvent (show execRegistrationComplete s = .next t from ht) hs fun _ he =>
      h.registrationEnd s he hs
  | placement => exact h.ofEvent (show execPlacement s = .next t from ht) hs fun _ he => h.placementEvent s rfl he hs
  | compositeTake => exact h.ofEvent (show execCompositeTake s = .next t from ht) hs fun _ he => h.takeComposite s he hs
  | compositeComplete =>
    exact h.ofEvent (show execCompositeComplete s = .next t from ht) hs fun _ he =>
      h.completeComposite s rfl he hs
  | tileRunTake =>
    rcases execTileRunTake_cases (show execTileRunTake s = .next t from ht) with rfl | ⟨-, he, rfl | ⟨-, -, -, rfl⟩⟩
    · exact hs
    · exact h.parts _ _ .arbitrate (h.takeRun s he hs)
    · exact h.takeRun s he hs

/-- A take comes, on the head directive and the queue's rest, or does not. -/
theorem takeDirective_cases {is : Byte → Bool} {act : List Byte → State → State} {s t : State}
    (h : takeDirective is act s = .next t) : (s.power = .running ∧ canTake is s = true ∧
      t = Machine.arbitrate (act (headBody s) (popDirective s))) ∨ t = s := event_cases h

/-! ### Every step -/

/-- A step is the exec of the front command on the rest of the queue, or idles. -/
theorem step_cases {t : State} (h : step s = .next t) :
    t = s ∨ ∃ c rest, s.pending = c :: rest ∧ exec c { s with pending := rest } = .next t := by
  unfold step at h
  split at h
  · cases h
    exact .inl rfl
  · exact .inr ⟨_, _, ‹_›, h⟩

/-- A property that does not read the queue of commands, and that every command keeps, is kept by every step. -/
theorem step_keeps {P : State → Prop} (hk : ∀ c, Kept c P) (hq : ∀ q (s : State), P s → P { s with pending := q }) {t : State}
    (h : step s = .next t) (hs : P s) : P t := by
  rcases step_cases h with rfl | ⟨c, rest, -, he⟩
  · exact hs
  · exact (hk c).exec he (hq rest s hs)

end Sys2Proof.Proofs
end

section
/-! PROOF. O47 (R167, R168, R171): every step leaves the note unit settled, and its waiting replies in agreement with the directive
unit and the profile store. -/

namespace Sys2Proof.Proofs

open Sys2Proof.Machine

variable {s : State}

/-! ### Filling the note slots (R171) -/

theorem fillNotes_replies (n : NoteUnit) : (fillNotes n).replies = n.replies.drop (noteSlots - n.queue.length) := by
  have hfold (l : List EventKind) (m : NoteUnit) : (l.foldl emitPending m).replies = m.replies := by
    induction l generalizing m with
    | nil => rfl
    | cons k l ih => rw [List.foldl_cons, ih, emitPending_replies]
  exact hfold eventKinds (fillReplies n)

/-- The replies of a block are the placed ones and those that still wait. -/
theorem waitingFrom_eq_placed_add (n : NoteUnit) (src : ReplySource) : n.waitingFrom src =
    ((repliesPlaced n).countP fun r => decide (r.source = src)) + (fillNotes n).waitingFrom src := by
  rw [NoteUnit.waitingFrom, NoteUnit.waitingFrom, fillNotes_replies, repliesPlaced, ← List.countP_append, List.take_append_drop]

/-- A placed reply tells its maker, so the blocks go on agreeing with what still waits. -/
theorem repliesAgree_fill (h : s.repliesAgree) : (fill s).repliesAgree := by
  obtain ⟨hdir, hstore⟩ := h
  have hd := waitingFrom_eq_placed_add s.notes .directiveUnit
  have hp := waitingFrom_eq_placed_add s.notes .profileStore
  refine ⟨?_, fun hr => ?_⟩
  · show (fillNotes s.notes).waitingFrom .directiveUnit = _
    by_cases hany : (repliesPlaced s.notes).any (fun r => decide (r.source = .directiveUnit)) = true
    · have hpos := List.countP_pos_iff.2 (List.any_eq_true.1 hany)
      have : s.dirs.replyWaiting.toNat ≤ 1 := Bool.toNat_le _
      simp only [fill, hany, Bool.not_true, Bool.and_false, Bool.toNat_false]
      omega
    · have hzero := List.countP_eq_zero.2 fun r hr hsrc => hany (List.any_eq_true.2 ⟨r, hr, hsrc⟩)
      simp only [fill, hany, Bool.not_false, Bool.and_true]
      omega
  · replace hstore := hstore hr
    show (fillNotes s.notes).waitingFrom .profileStore + s.store.marker.isSome.toNat = _
    by_cases hany : (repliesPlaced s.notes).any (fun r => decide (r.source = .profileStore)) = true
    · have hpos := List.countP_pos_iff.2 (List.any_eq_true.1 hany)
      have : s.store.busy.isSome.toNat ≤ 1 := Bool.toNat_le _
      simp only [fill, hany, if_true, Option.isSome_none, Bool.toNat_false]
      omega
    · have hzero := List.countP_eq_zero.2 fun r hr hsrc => hany (List.any_eq_true.2 ⟨r, hr, hsrc⟩)
      simp only [fill, if_neg hany]
      omega

/-! ### The invariant through the parts of a step -/

/-- The note unit is settled and its waiting replies agree with their makers. -/
def NotesAgree (s : State) : Prop := s.notes.settled ∧ s.repliesAgree

theorem NotesAgree.fill (hq : s.notes.queue.length ≤ noteSlots) (h : s.repliesAgree) : NotesAgree (fill s) :=
  ⟨fillNotes_settles hq, repliesAgree_fill h⟩

theorem NotesAgree.raise (k : EventKind) (ws : List Word) (h : NotesAgree s) : NotesAgree (raise k ws s) := by
  obtain ⟨hs, hd, hp⟩ := h
  refine ⟨raiseNote_settles hs k ws, ?_, ?_⟩
  · simpa [NoteUnit.waitingFrom] using hd
  · simpa [NoteUnit.waitingFrom] using hp

theorem waitingFrom_append (n : NoteUnit) (src : ReplySource) (r : WaitingReply) :
    NoteUnit.waitingFrom { n with replies := n.replies ++ [r] } src =
      n.waitingFrom src + if r.source = src then 1 else 0 := by
  simp [NoteUnit.waitingFrom, List.countP_append, List.countP_singleton]

/-- A free directive unit hands over one reply. -/
theorem NotesAgree.replyTo (body : List Byte) (r : ResultCode) (ws : List Word) (hw : s.dirs.replyWaiting = false)
    (hq : s.notes.queue.length ≤ noteSlots) (h : s.repliesAgree) : NotesAgree (replyTo body r ws s) := by
  obtain ⟨hdir, hstore⟩ := h
  rw [hw] at hdir
  refine NotesAgree.fill hq ⟨?_, fun hr => ?_⟩
  · rw [waitingFrom_append, hdir]
    rfl
  · rw [waitingFrom_append]
    simpa using hstore hr

/-- A store whose operation has come to its end hands over one reply. -/
theorem NotesAgree.storeReply (code : Byte) (r : ResultCode) (ws : List Word) (hm : s.store.marker.isSome = true)
    (h : NotesAgree s) : NotesAgree (storeReply code r ws (clearMarker s)) := by
  obtain ⟨⟨hq, -⟩, hdir, hstore⟩ := h
  refine NotesAgree.fill hq ⟨?_, fun hr => ?_⟩
  · rw [waitingFrom_append]
    simpa using hdir
  · rw [waitingFrom_append]
    have hbusy := hstore hr
    rw [hm] at hbusy
    simpa using hbusy

theorem NotesAgree.sealTile (u : Tile) (h : NotesAgree s) : NotesAgree (sealTile s u) := by
  unfold Machine.sealTile beginStarvation
  dsimp only
  split
  · split
    · exact h
    · exact NotesAgree.raise _ _ h
  · exact h

theorem NotesAgree.takeRun (h : NotesAgree s) : NotesAgree (takeRun s) := by
  unfold Machine.takeRun beginStarvation
  split
  · exact h
  · dsimp only
    split
    · split
      · exact h
      · exact NotesAgree.raise _ _ h
    · exact h

theorem notesAgree_sweepClosed : SweepClosed NotesAgree := by
  intro s t part h
  cases part with
  | changeSweep => exact NotesAgree.raise _ _ h
  | recordOutcome => exact NotesAgree.raise _ _ h
  | examineTiles => exact foldl_closed (fun _ u hs => hs.sealTile u) _ h
  | _ => exact h

theorem notesAgree_captureClosed : CaptureClosed NotesAgree := by
  intro s t part h
  cases part <;> exact h

theorem notesAgree_canvasClosed : CanvasClosed NotesAgree := by
  intro s t part h
  cases part with
  | takeRun => exact h.takeRun
  | emptyRing =>
    unfold NotesAgree State.repliesAgree at *
    simpa using h
  | _ => exact h

theorem notesAgree_kept (c : Instr) : Kept c NotesAgree where
  toSweepSide := (notesAgree_sweepClosed.partsClosed notesAgree_captureClosed notesAgree_canvasClosed).sweepSide
  parts s t part h := by
    have hq : s.notes.queue.length ≤ noteSlots := h.1.1
    cases part with
    | pinReset =>
      refine ⟨h.1, h.2.1, fun hr => ?_⟩
      dsimp only at hr
      split at hr <;> cases hr
    | powerOn => exact ⟨settled_noteUnit_zero, rfl, fun _ => by simp [powerOn, State.cold, NoteUnit.waitingFrom, NoteUnit.zero]⟩
    | powerLoss => exact ⟨settled_noteUnit_zero, rfl, nofun⟩
    | arbitrate =>
      unfold NotesAgree State.repliesAgree at *
      simpa using h
    | noteTail => exact NotesAgree.fill (by simpa using Nat.le_succ_of_le hq) h.2
    | raise => exact h.raise _ _
    | replyTo body r ws hw => exact .replyTo body r ws hw hq h.2
    | setMasks body n ws hw => exact .replyTo body .done ws hw hq h.2
    | resetEngine => exact ⟨settled_noteUnit_zero, rfl, fun _ => by simp [resetUnits, NoteUnit.waitingFrom, NoteUnit.zero]⟩
    | armSweep => exact NotesAgree.raise _ _ h
    | releaseSweep => exact NotesAgree.raise _ _ h
    | beginOperation body i op hb =>
      refine ⟨h.1, h.2.1, fun hr => ?_⟩
      have := h.2.2 hr
      rw [hb] at this
      simp only [Option.isSome_none, Bool.toNat_false, Nat.add_eq_zero_iff] at this
      simp [this.1]
    | moveMarker m hm =>
      refine ⟨h.1, h.2.1, fun hr => ?_⟩
      have := h.2.2 hr
      rw [hm] at this
      exact this
    | storeReply code r ws hm => exact h.storeReply code r ws hm
    | _ => exact h

/-- Settles O47: `NotesAgree` through every part of a step. -/
theorem everyStepSettlesTheNoteUnit : Obligations.EveryStepSettlesTheNoteUnit := fun _ _ hs h =>
  step_keeps notesAgree_kept (fun _ _ h => h) h hs

end Sys2Proof.Proofs
end

section
/-! PROOF. O48 (R7, R10, R13, R154, R166, R170, R175, R186): every step keeps the rooms, the credits, the counters, the store and the
receiver, and leaves no offer on an idle, unheld lane but the one of R157. -/

namespace Sys2Proof.Proofs

open Sys2Proof.Machine

variable {s t : State} {c : Instr}

/-! ### The rooms (R10, R166, R170) -/

theorem length_raiseNote_le {n : NoteUnit} (h : n.queue.length ≤ noteSlots) (k : EventKind) (ws : List Word) :
    (raiseNote k ws n).queue.length ≤ noteSlots := by
  rcases raiseNote_cases k ws n with ⟨_, -, e⟩ | ⟨-, -, hl, e⟩ | ⟨-, -, e⟩ <;> rw [e]
  · exact h
  · simpa using hl
  · exact h

theorem roomsKept_raise (k : EventKind) (ws : List Word) (h : s.roomsKept) : (raise k ws s).roomsKept :=
  ⟨h.1, h.2.1, length_raiseNote_le h.2.2 k ws⟩

theorem roomsKept_fill (h : s.roomsKept) : (fill s).roomsKept :=
  ⟨h.1, h.2.1, (fillNotes_settles h.2.2).1⟩

theorem roomsKept_sealTile (t : Tile) (h : s.roomsKept) : (sealTile s t).roomsKept := by
  unfold sealTile beginStarvation
  dsimp only
  split
  · split
    · exact h
    · exact roomsKept_raise (s := { s with ring := _ }) _ _ h
  · exact h

theorem roomsKept_takeRun (h : s.roomsKept) : (takeRun s).roomsKept := by
  unfold takeRun beginStarvation
  split
  · exact h
  · dsimp only
    split
    · split
      · exact h
      · exact roomsKept_raise (s := { s with ring := _ }) _ _ h
    · exact h

theorem roomsKept_congr (hf : t.forward = s.forward) (hd : t.dirs = s.dirs) (hn : t.notes = s.notes) (h : s.roomsKept) :
    t.roomsKept := by
  unfold State.roomsKept
  rwa [hf, hd, hn]

theorem roomsKept_sweepClosed : SweepClosed State.roomsKept := by
  intro s t part h
  cases part with
  | changeSweep => exact roomsKept_raise _ _ h
  | recordOutcome => exact roomsKept_raise _ _ h
  | examineTiles => exact foldl_closed (fun _ u hs => roomsKept_sealTile u hs) _ h
  | _ => exact h

theorem roomsKept_captureClosed : CaptureClosed State.roomsKept := by
  intro s t part h
  cases part <;> exact h

theorem roomsKept_canvasClosed : CanvasClosed State.roomsKept := by
  intro s t part h
  cases part with
  | takeRun => exact roomsKept_takeRun h
  | emptyRing => exact roomsKept_congr (emptyRing_forward s) (emptyRing_dirs s) (emptyRing_notes s) h
  | _ => exact h

theorem roomsKept_kept (c : Instr) : Kept c State.roomsKept where
  toSweepSide := (roomsKept_sweepClosed.partsClosed roomsKept_captureClosed roomsKept_canvasClosed).sweepSide
  parts s t part h := by
    obtain ⟨hforward, hdirs, hnotes⟩ := h
    cases part with
    | powerOn => exact ⟨Nat.zero_le _, Nat.zero_le _, Nat.zero_le _⟩
    | powerLoss => exact ⟨Nat.zero_le _, Nat.zero_le _, Nat.zero_le _⟩
    | arbitrate =>
      exact roomsKept_congr (arbitrate_forward s) (arbitrate_dirs s) (arbitrate_notes s) ⟨hforward, hdirs, hnotes⟩
    | forwardTail => exact ⟨by simpa using Nat.le_succ_of_le hforward, hdirs, hnotes⟩
    | noteTail => exact roomsKept_fill ⟨hforward, hdirs, by simpa using Nat.le_succ_of_le hnotes⟩
    | raise => exact roomsKept_raise _ _ ⟨hforward, hdirs, hnotes⟩
    | forwardAppend p hl => exact ⟨by simpa using hl, hdirs, hnotes⟩
    | queueAppend body hl => exact ⟨hforward, by simpa using hl, hnotes⟩
    | popDirective => exact ⟨hforward, by simpa using Nat.le_succ_of_le hdirs, hnotes⟩
    | replyTo => exact roomsKept_fill ⟨hforward, hdirs, hnotes⟩
    | setMasks => exact roomsKept_fill ⟨hforward, hdirs, hnotes⟩
    | resetEngine =>
      exact ⟨by simpa [resetUnits, resetBlocks] using hforward, by simpa [resetUnits, resetBlocks] using hdirs, Nat.zero_le _⟩
    | armSweep => exact roomsKept_raise _ _ ⟨hforward, hdirs, hnotes⟩
    | releaseSweep => exact roomsKept_raise _ _ ⟨hforward, hdirs, hnotes⟩
    | storeReply => exact roomsKept_fill ⟨hforward, hdirs, hnotes⟩
    | _ => exact ⟨hforward, hdirs, hnotes⟩

/-! ### The credits (R154) -/

theorem creditsKept_congr (hc : t.ring.credits = s.ring.credits) (h : s.creditsKept) : t.creditsKept := by
  unfold State.creditsKept
  rwa [hc]

theorem creditsKept_sweepClosed : SweepClosed State.creditsKept := by
  intro s t part h
  cases part with
  | examineTiles => exact creditsKept_congr (examineTiles_ring_credits s) h
  | _ => exact h

theorem creditsKept_captureClosed : CaptureClosed State.creditsKept := by
  intro s t part h
  cases part <;> exact h

theorem creditsKept_takeRun (h : s.creditsKept) : (takeRun s).creditsKept := by
  unfold takeRun
  split
  · exact h
  · dsimp only
    split
    · exact creditsKept_congr (beginStarvation_ring_credits _) (Nat.le_trans (Nat.sub_le _ _) h)
    · exact Nat.le_trans (Nat.sub_le _ _) h

theorem creditsKept_emptyRing (h : s.creditsKept) : (emptyRing s).creditsKept := by
  unfold emptyRing settleRun
  split
  · exact h
  · split
    · exact Nat.min_le_left _ _
    all_goals exact h

/-- R157: a take gives a credit away; R164: a cancelled run's credit comes back, up to 255. -/
theorem creditsKept_canvasClosed : CanvasClosed State.creditsKept := by
  intro s t part h
  cases part with
  | takeRun => exact creditsKept_takeRun h
  | emptyRing => exact creditsKept_emptyRing h
  | _ => exact h

theorem armedParams_credits_le (d : Direction) (k : Nat) (ps : List Nat) : (armedParams d k ps).credits ≤ 255 := by
  rw [armedParams_eq]
  exact Nat.min_le_left _ _

theorem creditsKept_kept (c : Instr) : Kept c State.creditsKept where
  toSweepSide := (creditsKept_sweepClosed.partsClosed creditsKept_captureClosed creditsKept_canvasClosed).sweepSide
  parts s t part h := by
    cases part with
    | powerOn => exact Nat.zero_le _
    | powerLoss => exact Nat.zero_le _
    | arbitrate => exact creditsKept_congr (by rw [arbitrate_ring]) h
    | resetEngine =>
      exact creditsKept_congr (s := { s with ring := .zero }) (by simp [resetUnits, resetBlocks]; rfl) (Nat.zero_le _)
    | armSweep d ps => exact armedParams_credits_le d (mapWidth (workingMap s.tables)) ps
    | releaseSweep => exact Nat.zero_le _
    | credits n => exact Nat.min_le_left 255 n
    | _ => exact h

/-! ### The counters (section 9.6) -/

theorem saturate16_le (n : Nat) : saturate16 n ≤ 65535 := Nat.min_le_left _ _

theorem countersSound_zero : Counters.zero.sound := by
  unfold Counters.sound
  decide

theorem countersSound_congr (hc : t.counters = s.counters) (h : s.counters.sound) : t.counters.sound := by rwa [hc]

theorem countersSound_recordOutcome (r : OutcomeRecord) (h : s.counters.sound) : (recordOutcome r s).counters.sound := by
  obtain ⟨h1, h2, h3, h4⟩ := h
  unfold recordOutcome
  dsimp only
  cases countsAsComposited r.outcome
  · exact ⟨h1, h2, saturate16_le _, h4⟩
  · exact ⟨h1, saturate16_le _, h3, h4⟩

theorem countersSound_sweepClosed : SweepClosed fun s => s.counters.sound := by
  intro s t part h
  cases part with
  | recordOutcome r => exact countersSound_recordOutcome r h
  | examineTiles => exact countersSound_congr (examineTiles_counters s) h
  | _ => exact h

theorem countersSound_captureClosed : CaptureClosed fun s => s.counters.sound := by
  intro s t part h
  obtain ⟨h1, h2, h3, h4, h5, h6, h7, h8⟩ := h
  cases part with
  | opensSeen n => exact ⟨saturate16_le n, h2, h3, h4, h5, h6, h7, h8⟩
  | linesRepaired n => exact ⟨h1, h2, h3, h4, h5, h6, h7, saturate16_le n⟩
  | _ => exact ⟨h1, h2, h3, h4, h5, h6, h7, h8⟩

theorem countersSound_canvasClosed : CanvasClosed fun s => s.counters.sound := by
  intro s t part h
  cases part with
  | tilesEmitted n =>
    obtain ⟨h1, h2, h3, -, h5⟩ := h
    exact ⟨h1, h2, h3, saturate16_le n, h5⟩
  | takeRun => exact countersSound_congr (takeRun_counters s) h
  | emptyRing => exact countersSound_congr (emptyRing_counters s) h
  | _ => exact h

theorem countersSound_kept (c : Instr) : Kept c fun s => s.counters.sound where
  toSweepSide := (countersSound_sweepClosed.partsClosed countersSound_captureClosed countersSound_canvasClosed).sweepSide
  parts s t part h := by
    have hs := h
    obtain ⟨h1, h2, h3, h4, h5, h6, h7, h8⟩ := h
    cases part with
    | powerOn => exact countersSound_zero
    | powerLoss => exact countersSound_zero
    | arbitrate => exact countersSound_congr (arbitrate_counters s) hs
    | syncLosses n => exact ⟨h1, h2, h3, h4, saturate16_le n, h6, h7, h8⟩
    | directivesDropped n => exact ⟨h1, h2, h3, h4, h5, saturate16_le n, h7, h8⟩
    | passthroughDrops n => exact ⟨h1, h2, h3, h4, h5, h6, saturate16_le n, h8⟩
    | zeroCounters => exact countersSound_zero
    | resetEngine => exact countersSound_congr (by simp [resetUnits, resetBlocks]) hs
    | _ => exact hs

/-! ### The profile store (R186) -/

theorem storeSound_congr (hc : t.store.slots = s.store.slots) (h : s.store.sound) : t.store.sound := by
  unfold Store.sound
  rwa [hc]

/-- A slot replaced by one within the wear limit, with an image in canonical form, leaves the store sound. -/
theorem storeSound_set {st u : Store} {i : Fin 4} {p : ProfileSlot} (hu : u.slots = st.slots.set i p) (h : st.sound)
    (hw : p.wear ≤ wearLimit) (hi : p.image.wf) : u.sound := by
  intro j
  rw [hu, ProfileSlots.get_set]
  split
  · exact ⟨hw, hi⟩
  · exact h j

theorem wornOnce_wear_le {p : ProfileSlot} (h : p.wear ≤ wearLimit) : (wornOnce p).wear ≤ wearLimit := by
  unfold wornOnce
  split
  · exact Nat.succ_le_of_lt ‹_›
  · exact h

theorem wornOnce_image (p : ProfileSlot) : (wornOnce p).image = p.image := by
  unfold wornOnce
  split <;> rfl

theorem storeSound_cutOperation (h : s.store.sound) : (cutOperation s).store.sound := by
  unfold cutOperation
  split
  · exact h
  · refine storeSound_set (st := s.store) rfl h ?_ ?_
    · exact (h _).1
    · dsimp only
      exact tornImage_wf _

theorem storeSound_sweepClosed : SweepClosed fun s => s.store.sound := by
  intro s t part h
  cases part with
  | examineTiles => exact storeSound_congr (by rw [examineTiles_store]) h
  | _ => exact h

theorem storeSound_captureClosed : CaptureClosed fun s => s.store.sound := by
  intro s t part h
  cases part <;> exact h

theorem storeSound_canvasClosed : CanvasClosed fun s => s.store.sound := by
  intro s t part h
  cases part with
  | takeRun => exact storeSound_congr (by rw [takeRun_store]) h
  | emptyRing => exact storeSound_congr (by rw [emptyRing_store]) h
  | _ => exact h

theorem storeSound_kept (c : Instr) : Kept c fun s => s.store.sound where
  toSweepSide := (storeSound_sweepClosed.partsClosed storeSound_captureClosed storeSound_canvasClosed).sweepSide
  parts s t part h := by
    cases part with
    | powerOn => exact storeSound_congr (s := cutOperation s) rfl (storeSound_cutOperation h)
    | powerLoss => exact storeSound_congr (s := s) rfl h
    | arbitrate => exact storeSound_congr (by rw [arbitrate_store]) h
    | resetEngine =>
      have hstore : (resetBlocks s).store = s.store := by simp [resetBlocks]
      exact storeSound_congr (s := cutOperation (resetBlocks s)) rfl
        (storeSound_cutOperation (storeSound_congr (by rw [hstore]) h))
    | wearSlot i =>
      refine storeSound_set (st := s.store) rfl h (wornOnce_wear_le (h i).1) ?_
      rw [wornOnce_image]
      exact (h i).2
    | eraseSlot i =>
      refine storeSound_set (st := s.store) rfl h ?_ ?_
      · exact (h i).1
      · exact blankImage_wf
    | writeSlot i ws =>
      refine storeSound_set (st := s.store) rfl h ?_ ?_
      · exact (h i).1
      · dsimp only
        exact imageOfWords_wf ws
    | _ => exact h

/-! ### The receiver (R6, R7) -/

theorem inletKept_sweepClosed : SweepClosed fun s => s.inlet.kept := by
  intro s t part h
  cases part with
  | examineTiles => simpa using h
  | _ => exact h

theorem inletKept_captureClosed : CaptureClosed fun s => s.inlet.kept := by
  intro s t part h
  cases part <;> exact h

theorem inletKept_canvasClosed : CanvasClosed fun s => s.inlet.kept := by
  intro s t part h
  cases part with
  | takeRun => simpa using h
  | emptyRing => simpa using h
  | _ => exact h

theorem inletKept_kept (c : Instr) : Kept c fun s => s.inlet.kept where
  toSweepSide := (inletKept_sweepClosed.partsClosed inletKept_captureClosed inletKept_canvasClosed).sweepSide
  parts s t part h := by
    cases part with
    | pinReset => exact Nat.zero_le _
    | powerOn => exact Nat.zero_le _
    | powerLoss => exact Nat.zero_le _
    | arbitrate => simpa using h
    | setFraming f n hf => exact hf
    | resetEngine => simpa [resetUnits, resetBlocks] using h
    | _ => exact h

/-! ### The outlet (R13, R157) -/

/-- The arbiter leaves no offer on an idle, unheld lane. -/
theorem laneAgrees_arbitrate (s : State) : (arbitrate s).laneAgrees := by
  intro hp hh hn
  rw [arbitrate_power] at hp
  rw [arbitrate_holdLine] at hh
  rw [arbitrate_forward, arbitrate_notes, arbitrate_ring]
  unfold arbitrate at hn
  split at hn
  · rename_i hblocked
    simp [hp, hh, hn] at hblocked
  · split at hn
    · cases hn
    · cases hn
    · unfold startTilePacket at hn
      dsimp only at hn
      split at hn <;> cases hn
    · exact ⟨‹_›, ‹_›, .inl ‹_›⟩

/-- Where the abort of R157 has arrived, its take comes. -/
theorem exec_sweepAbort_of_offers {body : List Byte} {rest : List (List Byte)} (h : s.offers body rest)
    (hc : dirCode body = 0x12) :
    exec .sweepAbort s = .next (arbitrate (doSweepAbort body (s.taken rest))) :=
  takeDirective_of_offers h (by rw [hc]; rfl)

theorem takeRun_run_head (h : s.ring.sealedQueue ≠ []) : ∃ r, (takeRun s).ring.run = some r ∧ r.next = .head := by
  unfold takeRun
  split
  · exact absurd ‹_› h
  · dsimp only
    split
    · exact ⟨_, beginStarvation_ring_run _, rfl⟩
    · exact ⟨_, rfl, rfl⟩

/-- The take of a run leaves what makes an abort one that has arrived. -/
theorem abortBehind_takeRun (h : s.abortBehind) : (takeRun s).abortBehind := by
  unfold State.abortBehind State.offers at *
  simpa using h

/-- Without the offer of R157 the commands behind do not matter. -/
theorem laneAgrees_of_pending {q : List Instr} (h : s.laneAgrees) (hx : ¬s.abortBehind) :
    State.laneAgrees { s with pending := q } := by
  intro hp hh hn
  obtain ⟨hf, hq, hr⟩ := h hp hh hn
  exact ⟨hf, hq, .inl (hr.resolve_right fun e => hx e.1)⟩

/-- A command that does not come leaves the lane as it was: the abort of R157 always comes. -/
theorem laneAgrees_exec {rest : List Instr} (h : s.laneAgrees) (hs : s.pending = c :: rest)
    (ht : exec c { s with pending := rest } = .next t) : t.laneAgrees := by
  by_cases hx : s.abortBehind
  · obtain ⟨hhead, ⟨body, queue, hoffers, hcode, -⟩, -⟩ := hx
    rw [hs] at hhead
    cases hhead
    rw [exec_sweepAbort_of_offers (s := { s with pending := rest }) hoffers hcode] at ht
    cases ht
    exact laneAgrees_arbitrate _
  · have hstay := laneAgrees_of_pending (q := rest) h hx
    by_cases hrun : c = .tileRunTake
    · subst hrun
      rcases execTileRunTake_cases (show execTileRunTake _ = .next t from ht) with
        rfl | ⟨hp, hcan, rfl | ⟨harrives, hf, hn, rfl⟩⟩
      · exact hstay
      · exact laneAgrees_arbitrate _
      · intro _ _ _
        refine ⟨hf, hn, .inr ⟨abortBehind_takeRun ((abortArrives_iff hp).1 harrives), takeRun_run_head ?_⟩⟩
        simp only [canTakeRun, Bool.and_eq_true] at hcan
        simpa using hcan.2
    · cases hline : lineEvent c with
      | true =>
        cases c <;> cases hline <;> cases ht
        · intro hp
          dsimp only at hp
          split at hp <;> cases hp
        · exact fun _ _ _ => ⟨rfl, rfl, .inl rfl⟩
        · exact fun hp => by cases hp
        · exact laneAgrees_arbitrate _
      | false =>
        obtain ⟨enabled, effect, he⟩ := exec_event c hline hrun
        rcases event_cases ((he _).symm.trans ht) with ⟨-, -, rfl⟩ | rfl
        · exact laneAgrees_arbitrate _
        · exact hstay

/-! ### The obligation -/

/-- Settles O48: the lane by `laneAgrees_exec`, the rest through every part of a step. -/
theorem everyStepKeepsRoomsCountersAndTheStore : Obligations.EveryStepKeepsRoomsCountersAndTheStore := by
  refine ⟨fun s t hl h => ?_, fun s t hk h => step_keeps inletKept_kept (fun _ _ h => h) h hk,
    fun s t ⟨hr, hc, hn, hst⟩ h => ⟨step_keeps roomsKept_kept (fun _ _ h => h) h hr,
      step_keeps creditsKept_kept (fun _ _ h => h) h hc, step_keeps countersSound_kept (fun _ _ h => h) h hn,
      step_keeps storeSound_kept (fun _ _ h => h) h hst⟩⟩
  rcases step_cases h with rfl | ⟨c, rest, hs, ht⟩
  · exact hl
  · exact laneAgrees_exec hl hs ht

end Sys2Proof.Proofs
end

section
/-! PROOF. O49 (R23, R24, R82, R179): every step keeps the VALID tables, the sweep's hold on them and its recorded parameters
legal. -/

namespace Sys2Proof.Proofs

open Sys2Proof.Machine

variable {s t : State} {c : Instr}

/-- The VALID tables are legal, a sweep has all three, and its parameters are legal. -/
def TablesAndParams (s : State) : Prop := s.tablesAgree ∧ s.sweep.paramsAgree

theorem tablesAndParams_congr (ht : t.tables = s.tables) (hs : t.sweep.state ≠ .idle → s.sweep.state ≠ .idle)
    (hp : t.sweep.params = s.sweep.params) (h : TablesAndParams s) : TablesAndParams t := by
  obtain ⟨⟨hsound, hvalid⟩, hlegal⟩ := h
  unfold TablesAndParams State.tablesAgree Sweep.paramsAgree
  rw [ht, hp]
  exact ⟨⟨hsound, fun hn => hvalid (hs hn)⟩, fun hn => hlegal (hs hn)⟩

/-- With the sweep and the tables as they were, nothing the property reads has changed. -/
theorem tablesAndParams_of_same (ht : t.tables = s.tables) (hw : t.sweep = s.sweep) (h : TablesAndParams s) :
    TablesAndParams t := tablesAndParams_congr ht (by rw [hw]; exact id) (by rw [hw]) h

/-- In IDLE only the tables count. -/
theorem tablesAndParams_idle (hw : t.sweep.state = .idle) (h : t.tables.sound) : TablesAndParams t :=
  ⟨⟨h, fun hn => absurd hw hn⟩, fun hn => absurd hw hn⟩

theorem tablesAndParams_sweepClosed : SweepClosed TablesAndParams := by
  intro s t part h
  cases part with
  | changeSweep st cause hst hs => exact tablesAndParams_congr (s := s) (by simp) (fun _ => hs) (by simp) h
  | recordOutcome r =>
    exact tablesAndParams_congr (s := s) (by simp) (fun hn => by simpa [recordOutcome] using hn) (by simp [recordOutcome]) h
  | examineTiles => exact tablesAndParams_of_same (by simp) (by simp) h
  | _ => exact h

theorem tablesAndParams_captureClosed : CaptureClosed TablesAndParams := by
  intro s t part h
  cases part <;> exact h

theorem tablesAndParams_canvasClosed : CanvasClosed TablesAndParams := by
  intro s t part h
  cases part with
  | takeRun => exact tablesAndParams_of_same (by simp) (by simp) h
  | emptyRing => exact tablesAndParams_of_same (by simp) (by simp) h
  | _ => exact h

/-! ### The parameters of an arm (R24) -/

/-- R180: a legal map has 64 to 1920 entries. -/
theorem mapWidth_bounds (h : t.tables.sound) (hv : tableValidity t.tables = 7) :
    64 ≤ mapWidth (workingMap t.tables) ∧ mapWidth (workingMap t.tables) ≤ 1920 := by
  obtain ⟨hmap, -, -⟩ := (tableValidity_eq_seven_iff _).1 hv
  obtain ⟨m, hm⟩ := Option.ne_none_iff_exists'.1 hmap
  obtain ⟨hfault, -⟩ := h.1 m hm
  have hheader : columnMapHeaderOk m = true := by
    unfold columnMapFault at hfault
    split at hfault
    · assumption
    · cases hfault
  simp only [columnMapHeaderOk, decide_eq_true_eq] at hheader
  simp only [workingMap, hm, Option.getD_some, mapWidth]
  omega

/-- R24: what the ranges make of any thirteen parameters is legal. -/
theorem armedParams_legal (d : Direction) {k : Nat} (hk : k ≤ 1920) (ps : List Nat) : (armedParams d k ps).legal := by
  rw [armedParams_eq]
  simp only [SweepParams.legal]
  refine ⟨⟨?_, ?_⟩, ⟨?_, ?_, ?_⟩, ⟨?_, ?_⟩, ?_, ?_, ⟨?_, ?_, ?_⟩, ⟨?_, ?_, ?_⟩, ⟨?_, ?_⟩, ?_, ?_, ⟨?_, ?_⟩, ?_⟩ <;> omega

/-! ### The power-on recall (R196) -/

theorem tablesSound_empty : Tables.sound .empty := by simp [Tables.sound, Tables.empty]

theorem powerOnTables_sound (st : Store) : (powerOnTables st).sound := by
  unfold powerOnTables
  split
  · exact tablesSound_empty
  · split
    · split
      · rename_i hr
        exact (tablesMayBecome_recalled (t := .empty) hr).1 tablesSound_empty
      · exact tablesSound_empty
    · exact tablesSound_empty

theorem tablesAndParams_kept (c : Instr) : Kept c TablesAndParams where
  toSweepSide := (tablesAndParams_sweepClosed.partsClosed tablesAndParams_captureClosed tablesAndParams_canvasClosed).sweepSide
  parts s t part h := by
    obtain ⟨⟨hsound, hvalid⟩, hlegal⟩ := id h
    cases part with
    | powerOn => exact tablesAndParams_idle rfl (powerOnTables_sound _)
    | powerLoss => exact tablesAndParams_idle rfl tablesSound_empty
    | arbitrate => exact tablesAndParams_congr (s := s) (by simp) (fun hn => by simpa using hn) (by simp) h
    | resetEngine =>
      refine tablesAndParams_idle (by simp [resetUnits, resetBlocks, Sweep.zero]) ?_
      have := (tablesMayBecome_assembly (x := none) (t := s.tables) (fun _ _ e => by cases e)).1 hsound
      simpa [resetUnits, resetBlocks] using this
    | armSweep d ps hc hs hv =>
      exact ⟨⟨hsound, fun _ => hv⟩, fun _ => armedParams_legal d (mapWidth_bounds hsound hv).2 ps⟩
    | releaseSweep => exact tablesAndParams_idle rfl hsound
    | tables u hm hu => exact ⟨⟨hu.1 hsound, fun hn => hu.2 (hvalid hn)⟩, hlegal⟩
    | _ => exact h

/-- Settles O49: `TablesAndParams` through every part of a step. -/
theorem everyStepKeepsTablesAndParametersLegal : Obligations.EveryStepKeepsTablesAndParametersLegal := fun _ _ hs h =>
  step_keeps tablesAndParams_kept (fun _ _ h => h) h hs

end Sys2Proof.Proofs
end

section
/-! PROOF. O50 (R30): every step keeps the coast counter in agreement with the sweep state. -/

namespace Sys2Proof.Proofs

open Sys2Proof.Machine

variable {s t : State} {c : Instr}

theorem coastAgrees_congr {w v : Sweep} (hs : w.state = v.state) (hc : w.coast = v.coast)
    (hp : w.params.coastLimit = v.params.coastLimit) (h : v.coastAgrees) : w.coastAgrees := by
  unfold Sweep.coastAgrees
  rwa [hs, hc, hp]

/-- In ENDED only the bound of the counter counts. -/
theorem coastAgrees_ended (cause : EndCause) (h : s.sweep.coastAgrees) : (changeSweep .ended cause s).sweep.coastAgrees := by
  simpa [Sweep.coastAgrees] using h.1

theorem coastAgrees_testDrain (h : s.sweep.coastAgrees) : (testDrain s).sweep.coastAgrees := by
  rcases testDrain_cases s with ⟨-, e⟩ | ⟨-, e⟩ <;> rw [e]
  · exact coastAgrees_ended _ h
  · exact h

theorem coastAgrees_captureClosed : CaptureClosed fun s => s.sweep.coastAgrees := by
  intro s t part h
  cases part <;> exact h

theorem coastAgrees_canvasClosed : CanvasClosed fun s => s.sweep.coastAgrees := by
  intro s t part h
  cases part with
  | takeRun => rwa [takeRun_sweep]
  | emptyRing => rwa [emptyRing_sweep]
  | _ => exact h

theorem coastAgrees_partsClosed : PartsClosed fun s => s.sweep.coastAgrees where
  capturePart := coastAgrees_captureClosed
  canvasPart := coastAgrees_canvasClosed
  recordOutcome r s _ h := coastAgrees_congr (v := s.sweep) (by simp [recordOutcome]) (by simp [recordOutcome])
    (by simp [recordOutcome]) h
  decideOutcome r s h := coastAgrees_decideOutcome r h
  examineTiles s h := by rwa [examineTiles_sweep]
  testDrain s h := coastAgrees_testDrain h
  ended cause s _ h := coastAgrees_ended cause h
  enterDraining cause s hc h := by
    obtain ⟨hle, -, -, hlimit⟩ := h
    refine coastAgrees_enterDraining cause hle (hlimit (not_idle_of_capturing hc) fun he => ?_)
    simp [he, capturing] at hc

theorem coastAgrees_idle {w : Sweep} (hs : w.state = .idle) (hc : w.coast ≤ w.params.coastLimit) : w.coastAgrees := by
  simp [Sweep.coastAgrees, hs, hc]

theorem one_le_armedParams_coastLimit (d : Direction) (k : Nat) (ps : List Nat) : 1 ≤ (armedParams d k ps).coastLimit := by
  rw [armedParams_eq]
  exact Nat.le_max_left _ _

theorem coastAgrees_kept (c : Instr) : Kept c fun s => s.sweep.coastAgrees where
  toSweepSide := coastAgrees_partsClosed.sweepSide
  parts s t part h := by
    cases part with
    | powerOn => exact coastAgrees_idle rfl (Nat.le_refl _)
    | powerLoss => exact coastAgrees_idle rfl (Nat.le_refl _)
    | arbitrate => exact coastAgrees_congr (v := s.sweep) (by simp) (by simp) (by simp) h
    | resetEngine =>
      exact coastAgrees_idle (by simp [resetUnits, resetBlocks, Sweep.zero]) (by simp [resetUnits, resetBlocks, Sweep.zero])
    | armSweep d ps =>
      exact ⟨Nat.zero_le _, fun _ => rfl, nofun, fun _ _ =>
        one_le_armedParams_coastLimit d (mapWidth (workingMap s.tables)) ps⟩
    | releaseSweep => exact coastAgrees_idle rfl (Nat.zero_le _)
    | _ => exact h

/-- Settles O50: R30's agreement through every part of a step. -/
theorem everyStepKeepsTheCoastCounterBelowItsLimit : Obligations.EveryStepKeepsTheCoastCounterBelowItsLimit := fun _ _ hs h =>
  step_keeps coastAgrees_kept (fun _ _ h => h) h hs

end Sys2Proof.Proofs
end

section
/-! PROOF. O51 (R22, R25, R34, R38, R46, R47, R100, R138): every step keeps the slots, the capture order, the engine, the composite
queue and the sweep state agreeing. -/

namespace Sys2Proof.Proofs

open Sys2Proof.Machine

variable {s t : State} {i j : Fin 3} {f : CapturedFrame} {c : Instr}

/-! ### Slot states after the slots' own operations -/

theorem slotState_congr (h : t.capture = s.capture) (i : Fin 3) : slotState t i = slotState s i := by
  rw [slotState, slotState, h]

theorem slotState_setSlot (i j : Fin 3) (f : CapturedFrame) (s : State) :
    slotState (setSlot i f s) j = if j = i then some f.state else slotState s j := by
  simp only [slotState, setSlot_slots, FrameSlots.get_set]
  split <;> rfl

theorem slotState_freeSlot (i j : Fin 3) (s : State) :
    slotState (freeSlot i s) j = if j = i then none else slotState s j := by
  simp only [slotState, freeSlot_slots, FrameSlots.get_set]
  split <;> rfl

theorem slotState_eq_none_iff : slotState s i = none ↔ s.capture.slots.get i = none := by simp [slotState]

theorem slot_isSome_iff : (s.capture.slots.get i).isSome = true ↔ slotState s i ≠ none := by
  simp [slotState, Option.isSome_iff_ne_none]

/-! ### Discarding slots (R58) -/

theorem slotState_discardSlot (s : State) (i j : Fin 3) :
    slotState (discardSlot s i) j = if j = i then none else slotState s j := by
  unfold discardSlot
  split
  · rename_i hn
    split
    · rw [‹j = i›, slotState_eq_none_iff, hn]
    · rfl
  · exact slotState_freeSlot i j s

theorem get_discardSlot (s : State) (i j : Fin 3) :
    (discardSlot s i).capture.slots.get j = if j = i then none else s.capture.slots.get j := by
  unfold discardSlot
  split
  · split <;> simp_all
  · exact FrameSlots.get_set _ i j none

theorem order_discardSlot (h : s.capture.slots.get i ≠ none) :
    (discardSlot s i).capture.order = s.capture.order.filter fun j => decide (j ≠ i) := by
  unfold discardSlot
  split
  · exact absurd ‹_› h
  · rfl

theorem get_foldl_discardSlot (l : List (Fin 3)) (s : State) (j : Fin 3) :
    (l.foldl discardSlot s).capture.slots.get j = if j ∈ l then none else s.capture.slots.get j := by
  induction l generalizing s with
  | nil => simp
  | cons i l ih =>
    rw [List.foldl_cons, ih, get_discardSlot]
    by_cases hl : j ∈ l <;> by_cases hi : j = i <;> simp [hl, hi]

theorem order_foldl_discardSlot {l : List (Fin 3)} (hn : l.Nodup) (h : ∀ i ∈ l, s.capture.slots.get i ≠ none) :
    (l.foldl discardSlot s).capture.order = s.capture.order.filter fun j => decide (j ∉ l) := by
  induction l generalizing s with
  | nil => simp
  | cons i l ih =>
    obtain ⟨hi, hl⟩ := List.nodup_cons.1 hn
    rw [List.foldl_cons, ih hl, order_discardSlot (h i (by simp)), List.filter_filter]
    · refine List.filter_congr fun j _ => ?_
      simp [Bool.and_comm]
    · intro k hk
      rw [get_discardSlot, if_neg fun e : k = i => hi (e ▸ hk)]
      exact h k (by simp [hk])

/-- R58: the frame is one that discarding frees. -/
def captured (s : State) (i : Fin 3) : Bool := decide (slotState s i = some .filling ∨ slotState s i = some .ready)

theorem discardCaptured_eq (s : State) : discardCaptured s = (s.capture.order.filter (captured s)).foldl discardSlot s := rfl

theorem occupied_of_captured (h : captured s i = true) : s.capture.slots.get i ≠ none := by
  intro hn
  simp [captured, slotState, hn] at h

/-- R58: discarding frees exactly the FILLING and READY slots. -/
theorem get_discardCaptured (h : s.captureAgrees) (i : Fin 3) :
    (discardCaptured s).capture.slots.get i = if captured s i then none else s.capture.slots.get i := by
  rw [discardCaptured_eq, get_foldl_discardSlot]
  by_cases hc : captured s i = true
  · simp [hc, (h.2.1 i).2 (Option.isSome_iff_ne_none.2 (occupied_of_captured hc))]
  · simp [hc]

theorem order_discardCaptured (h : s.captureAgrees) :
    (discardCaptured s).capture.order = s.capture.order.filter fun i => !captured s i := by
  rw [discardCaptured_eq, order_foldl_discardSlot (h.1.filter _) fun i hi => occupied_of_captured (List.mem_filter.1 hi).2]
  refine List.filter_congr fun i hi => ?_
  simp [hi]

theorem slotState_discardCaptured (h : s.captureAgrees) (i : Fin 3) :
    slotState (discardCaptured s) i = if captured s i then none else slotState s i := by
  rw [slotState, get_discardCaptured h]
  split <;> rfl

/-! ### The blocks' agreement, whatever the sweep state -/

/-- The slots agree with the capture order, the engine and the composite queue. -/
def BlocksAgree (s : State) : Prop := s.captureAgrees ∧ s.workAgrees

theorem captureAgrees_congr (ho : t.capture.order = s.capture.order) (hs : ∀ i, slotState t i = slotState s i)
    (h : s.captureAgrees) : t.captureAgrees := by
  unfold State.captureAgrees at *
  simp only [slot_isSome_iff, ho, hs] at *
  exact h

theorem workAgrees_congr (hs : ∀ i, slotState t i = slotState s i) (he : t.reg.engine = s.reg.engine)
    (hw : t.reg.work = s.reg.work) (hc : t.comp = s.comp) (h : s.workAgrees) : t.workAgrees := by
  unfold State.workAgrees at *
  simp only [hs, he, hw, hc]
  exact h

theorem blocksAgree_congr (hx : t.capture = s.capture) (hr : t.reg = s.reg) (hc : t.comp = s.comp) (h : BlocksAgree s) :
    BlocksAgree t :=
  ⟨captureAgrees_congr (by rw [hx]) (slotState_congr hx) h.1, workAgrees_congr (slotState_congr hx) (by rw [hr]) (by rw [hr]) hc h.2⟩

theorem captureAgrees_freeSlot (i : Fin 3) (h : s.captureAgrees) : (freeSlot i s).captureAgrees := by
  obtain ⟨hnodup, hmem, hone⟩ := h
  refine ⟨hnodup.filter _, fun k => ?_, fun k l hk hl => ?_⟩
  · rw [slot_isSome_iff, slotState_freeSlot, freeSlot_order]
    by_cases hki : k = i
    · simp [hki]
    · simpa [hki, ← slot_isSome_iff] using hmem k
  · rw [slotState_freeSlot] at hk hl
    split at hk <;> split at hl <;> try contradiction
    exact hone k l hk hl

theorem captureAgrees_setSlot (hi : slotState s i ≠ none) (hf : f.state = .filling → slotState s i = some .filling)
    (h : s.captureAgrees) : (setSlot i f s).captureAgrees := by
  obtain ⟨hnodup, hmem, hone⟩ := h
  refine ⟨hnodup, fun k => ?_, fun k l hk hl => ?_⟩
  · rw [slot_isSome_iff, slotState_setSlot]
    by_cases hki : k = i
    · simpa [hki] using (hmem i).2 (slot_isSome_iff.2 hi)
    · simpa [hki, ← slot_isSome_iff] using hmem k
  · have hfill : ∀ m, slotState (setSlot i f s) m = some .filling → slotState s m = some .filling := by
      intro m hm
      rw [slotState_setSlot] at hm
      split at hm
      · rw [‹m = i›]
        exact hf (by simpa using hm)
      · exact hm
    exact hone k l (hfill k hk) (hfill l hl)

/-- A slot that neither registers nor waits for its composite may be freed. -/
theorem workAgrees_freeSlot (hr : slotState s i ≠ some .registering) (hp : slotState s i ≠ some .placed)
    (h : s.workAgrees) : (freeSlot i s).workAgrees := by
  obtain ⟨hreg, hwork, hnodup, hqueue, hwriting⟩ := h
  refine ⟨fun k => ?_, hwork, hnodup, fun k => ?_, hwriting⟩
  · rw [slotState_freeSlot]
    by_cases hk : k = i
    · subst hk
      simpa [hr] using mt (hreg k).2 hr
    · simpa [hk] using hreg k
  · rw [slotState_freeSlot]
    by_cases hk : k = i
    · subst hk
      simpa [hp] using mt (hqueue k).2 hp
    · simpa [hk] using hqueue k

theorem workAgrees_setSlot (hr : f.state = .registering ↔ slotState s i = some .registering)
    (hp : f.state = .placed ↔ slotState s i = some .placed) (h : s.workAgrees) : (setSlot i f s).workAgrees := by
  obtain ⟨hreg, hwork, hnodup, hqueue, hwriting⟩ := h
  refine ⟨fun k => ?_, hwork, hnodup, fun k => ?_, hwriting⟩
  · rw [slotState_setSlot]
    by_cases hk : k = i
    · subst hk
      simpa [hr] using hreg k
    · simpa [hk] using hreg k
  · rw [slotState_setSlot]
    by_cases hk : k = i
    · subst hk
      simpa [hp] using hqueue k
    · simpa [hk] using hqueue k

theorem blocksAgree_freeSlot (hr : slotState s i ≠ some .registering) (hp : slotState s i ≠ some .placed)
    (h : BlocksAgree s) : BlocksAgree (freeSlot i s) := ⟨captureAgrees_freeSlot i h.1, workAgrees_freeSlot hr hp h.2⟩

theorem blocksAgree_discardSlot (hr : slotState s i ≠ some .registering) (hp : slotState s i ≠ some .placed)
    (h : BlocksAgree s) : BlocksAgree (discardSlot s i) := by
  unfold discardSlot
  split
  · exact h
  · exact blocksAgree_congr (s := freeSlot i s) rfl rfl rfl (blocksAgree_freeSlot hr hp h)

theorem blocksAgree_discardCaptured (h : BlocksAgree s) : BlocksAgree (discardCaptured s) := by
  rw [discardCaptured_eq]
  have hcap : ∀ i ∈ s.capture.order.filter (captured s), slotState s i ≠ some .registering ∧ slotState s i ≠ some .placed := by
    intro i hi
    have := (List.mem_filter.1 hi).2
    simp only [captured, decide_eq_true_eq] at this
    rcases this with e | e <;> simp [e]
  generalize s.capture.order.filter (captured s) = l at hcap
  induction l generalizing s with
  | nil => exact h
  | cons i l ih =>
    refine ih (blocksAgree_discardSlot (hcap i (by simp)).1 (hcap i (by simp)).2 h) fun k hk => ?_
    rw [slotState_discardSlot]
    split
    · simp
    · exact hcap k (by simp [hk])

/-! ### Coherence through the changes of the sweep state -/

/-- While tracking goes on, coherence is the blocks' agreement. -/
theorem coherent_of_running (h : BlocksAgree s) (hs : s.sweep.state = .tracking ∨ s.sweep.state = .coasting) : s.coherent := by
  refine ⟨h.1, h.2, fun hc => ?_, fun he => ?_, fun he => ?_⟩ <;> rcases hs with hs | hs <;> simp_all [capturing]

theorem coherent_blocks (h : s.coherent) : BlocksAgree s := ⟨h.1, h.2.1⟩

theorem coherent_congr (hx : t.capture = s.capture) (hr : t.reg = s.reg) (hc : t.comp = s.comp)
    (hw : t.sweep.state = s.sweep.state) (ht : s.ring.tiles = [] → t.ring.tiles = [])
    (hp : t.placement.e = s.placement.e) (h : s.coherent) : t.coherent := by
  obtain ⟨hcap, hwork, hfree, hempty, hnone⟩ := h
  obtain ⟨hcap', hwork'⟩ := blocksAgree_congr hx hr hc ⟨hcap, hwork⟩
  refine ⟨hcap', hwork', fun hn i => ?_, fun he => ?_, fun he => ?_⟩
  · rw [slotState_congr hx]
    exact hfree (hw ▸ hn) i
  · rw [hr, hc]
    obtain ⟨h1, h2, h3⟩ := hempty (hw ▸ he)
    exact ⟨h1, h2, ht h3⟩
  · rw [hp]
    exact hnone (hw ▸ he)

/-- R36: a complete drain leaves nothing behind. -/
theorem empty_of_drainComplete (h : s.workAgrees) (hd : drainComplete s = true) :
    s.sweep.state = .draining ∧ s.reg.engine = .waiting ∧ s.comp.queue = [] ∧ s.ring.tiles = [] := by
  simp only [drainComplete, Bool.and_eq_true, decide_eq_true_eq, List.isEmpty_iff, Option.isNone_iff_eq_none] at hd
  obtain ⟨⟨⟨⟨hs, hlow⟩, hq⟩, -⟩, ht⟩ := hd
  refine ⟨hs, by_contra fun he => ?_, hq, ht⟩
  obtain ⟨i, hi⟩ := Option.isSome_iff_exists.1 (h.2.1 he)
  exact lowestIn_none hlow i ((h.1 i).2 ⟨he, hi⟩)

/-- Outside the capturing states, with no slot FILLING or READY, the drain's test leaves a coherent state. -/
theorem coherent_testDrain (h : s.coherent) : (testDrain s).coherent := by
  rcases testDrain_cases s with ⟨hd, e⟩ | ⟨-, e⟩ <;> rw [e]
  · obtain ⟨hcap, hwork, hfree, -, -⟩ := h
    obtain ⟨hs, hempty⟩ := empty_of_drainComplete hwork hd
    refine ⟨hcap, hwork, fun _ => hfree (by simp [hs, capturing]), fun _ => hempty, fun he => ?_⟩
    simp at he
  · exact h

theorem examineTiles_tiles_nil (h : s.ring.tiles = []) : (examineTiles s).ring.tiles = [] := by
  rw [examineTiles, h]
  exact h

theorem coherent_examineTiles (h : s.coherent) : (examineTiles s).coherent :=
  coherent_congr (s := s) (by simp) (by simp) (by simp) (by simp) examineTiles_tiles_nil (by simp) h

/-- R34: an entry to DRAINING frees the FILLING and READY slots, so the agreement of the blocks is enough. -/
theorem coherent_enterDraining (cause : EndCause) (h : BlocksAgree s) : (enterDraining cause s).coherent := by
  have hb : BlocksAgree (changeSweep .draining cause s) := h
  refine coherent_testDrain (coherent_examineTiles ⟨(blocksAgree_discardCaptured hb).1, (blocksAgree_discardCaptured hb).2,
    fun _ i => ?_, fun he => ?_, fun he => ?_⟩)
  · rw [slotState_discardCaptured hb.1]
    split
    · simp
    · rename_i hc
      simpa [captured] using hc
  all_goals simp at he

theorem blocksAgree_countOutcome (r : OutcomeRecord) (n : Nat) (h : BlocksAgree s) : BlocksAgree (countOutcome r n s) := h

/-- A decided outcome while tracking goes on, or the seed's, needs the blocks' agreement only. -/
theorem coherent_decideOutcome_of_blocks (r : OutcomeRecord) (h : BlocksAgree s)
    (hs : s.sweep.state = .tracking ∨ s.sweep.state = .coasting ∨ (s.sweep.state = .armed ∧ r.outcome = .seed)) :
    (decideOutcome r s).coherent := by
  have hb (n : Nat) : BlocksAgree (countOutcome r n s) := h
  rcases or_assoc.2 hs with hs | ⟨hs, ho⟩
  · cases he : coastEffect r.outcome s.sweep.state with
    | increment =>
      by_cases hc : s.sweep.coast + 1 < s.sweep.params.coastLimit
      · rw [decideOutcome_increment_below hs he hc]
        split
        · exact coherent_of_running (hb (s.sweep.coast + 1)) (.inr rfl)
        · exact coherent_of_running (hb (s.sweep.coast + 1)) hs
      · rw [decideOutcome_increment_at_limit hs he (Nat.not_lt.1 hc)]
        exact coherent_enterDraining _ (hb s.sweep.params.coastLimit)
    | clear =>
      rw [decideOutcome_clear hs he]
      split
      · exact coherent_of_running (hb 0) (.inl rfl)
      · exact coherent_of_running (hb 0) hs
    | keep =>
      rw [decideOutcome_keep he]
      exact coherent_of_running (hb s.sweep.coast) hs
  · rw [decideOutcome_armed hs rfl, if_pos ho]
    generalize coastAfter _ s.sweep.coast s.sweep.params.coastLimit = n
    exact coherent_of_running (hb n) (.inl rfl)

theorem coherent_decideOutcome (r : OutcomeRecord) (h : s.coherent) : (decideOutcome r s).coherent := by
  have hcount (n : Nat) : (countOutcome r n s).coherent := h
  have outside (hs : s.sweep.state = .idle ∨ s.sweep.state = .draining ∨ s.sweep.state = .ended) :
      (decideOutcome r s).coherent := by
    rw [decideOutcome_outside hs rfl]
    exact hcount _
  cases hs : s.sweep.state with
  | idle => exact outside (.inl hs)
  | draining => exact outside (.inr (.inl hs))
  | ended => exact outside (.inr (.inr hs))
  | tracking => exact coherent_decideOutcome_of_blocks r (coherent_blocks h) (.inl hs)
  | coasting => exact coherent_decideOutcome_of_blocks r (coherent_blocks h) (.inr (.inl hs))
  | armed =>
    by_cases ho : r.outcome = .seed
    · exact coherent_decideOutcome_of_blocks r (coherent_blocks h) (.inr (.inr ⟨hs, ho⟩))
    · rw [decideOutcome_armed hs rfl, if_neg ho]
      exact hcount _

theorem coherent_recordOutcome (r : OutcomeRecord) (h : s.coherent) : (recordOutcome r s).coherent :=
  coherent_congr (s := s) rfl rfl rfl (by simp [recordOutcome]) id rfl h

theorem coherent_takeWidthLimit (h : s.coherent) : (takeWidthLimit s).coherent := by
  unfold takeWidthLimit
  split
  · exact coherent_enterDraining _ (coherent_blocks h)
  · exact h

/-! ### Coherence through the sweep side's events -/

theorem captured_iff : captured s i = true ↔ slotState s i = some .filling ∨ slotState s i = some .ready := by
  simp [captured]

theorem capturing_of_captured (h : s.coherent) (hi : captured s i = true) : capturing s.sweep.state = true := by
  by_contra hn
  obtain ⟨hf, hr⟩ := h.2.2.1 (by simpa using hn) i
  rcases captured_iff.1 hi with e | e
  · exact hf e
  · exact hr e

theorem blocksAgree_freeCaptured (hi : captured s i = true) (h : BlocksAgree s) : BlocksAgree (freeSlot i s) := by
  rcases captured_iff.1 hi with e | e <;> exact blocksAgree_freeSlot (by simp [e]) (by simp [e]) h

/-- The phase survives where the slot states of the captured frames do. -/
theorem phaseAgrees_of_slots (hs : ∀ i, captured t i = true → capturing s.sweep.state = true) (hr : t.reg = s.reg)
    (hc : t.comp = s.comp) (hw : t.sweep.state = s.sweep.state) (ht : t.ring.tiles = s.ring.tiles)
    (hp : t.placement.e = s.placement.e) (h : s.phaseAgrees) : t.phaseAgrees := by
  obtain ⟨-, hempty, hnone⟩ := h
  refine ⟨fun hn i => ?_, by rwa [hw, hr, hc, ht], by rwa [hw, hp]⟩
  have hi : ¬captured t i = true := fun hi => by simp [hw, hs i hi] at hn
  simpa [captured] using hi

theorem coherent_freeCaptured (hi : captured s i = true) (h : s.coherent) : (freeSlot i s).coherent := by
  obtain ⟨hcap, hwork⟩ := blocksAgree_freeCaptured hi (coherent_blocks h)
  exact ⟨hcap, hwork, phaseAgrees_of_slots (fun _ _ => capturing_of_captured h hi) rfl rfl rfl rfl rfl h.2.2⟩

/-- A captured frame replaced by one that is captured too. -/
theorem coherent_setCaptured (hi : captured s i = true) (hf : f.state = .filling ∨ f.state = .ready)
    (hfill : f.state = .filling → slotState s i = some .filling) (h : s.coherent) : (setSlot i f s).coherent := by
  have hstates : f.state ≠ .registering ∧ f.state ≠ .placed := by rcases hf with e | e <;> simp [e]
  have hslot : slotState s i ≠ none ∧ slotState s i ≠ some .registering ∧ slotState s i ≠ some .placed := by
    rcases captured_iff.1 hi with e | e <;> simp [e]
  exact ⟨captureAgrees_setSlot hslot.1 hfill h.1, workAgrees_setSlot (by simp [hstates, hslot]) (by simp [hstates, hslot]) h.2.1,
    phaseAgrees_of_slots (fun _ _ => capturing_of_captured h hi) rfl rfl rfl rfl rfl h.2.2⟩

theorem captured_of_fillingSlot (h : fillingSlot s = some i) : captured s i = true :=
  captured_iff.2 (.inl (lowestIn_spec h).1)

theorem coherent_damageFrame (hi : captured s i = true) (h : s.coherent) : (damageFrame i s).coherent := by
  unfold damageFrame
  split
  · exact h
  · exact coherent_decideOutcome _ (coherent_freeCaptured hi h)

theorem coherent_damageFilling (h : s.coherent) : (damageFilling s).coherent := by
  unfold damageFilling
  split
  · exact h
  · exact coherent_damageFrame (captured_of_fillingSlot ‹_›) h

/-- No slot is FILLING. -/
def NoneFilling (s : State) : Prop := ∀ i, slotState s i ≠ some .filling

theorem noneFilling_sweepClosed : SweepClosed NoneFilling := by
  intro s t part h j
  cases part with
  | freeSlot i =>
    rw [slotState_freeSlot]
    split
    · simp
    · exact h j
  | examineTiles =>
    rw [slotState_congr (examineTiles_capture s)]
    exact h j
  | _ => exact h j

/-- R48 step 2: behind a damaged FILLING frame no slot is FILLING. -/
theorem noneFilling_damageFilling (h : s.captureAgrees) : NoneFilling (damageFilling s) := by
  unfold damageFilling
  split
  · exact lowestIn_none ‹_›
  · rename_i i hi
    have hfree : NoneFilling (freeSlot i s) := fun j hj => by
      rw [slotState_freeSlot] at hj
      split at hj
      · cases hj
      · exact ‹¬j = i› (h.2.2 j i hj (lowestIn_spec hi).1)
    unfold damageFrame
    split
    · rename_i hnone
      have := (lowestIn_spec hi).1
      simp [slotState, hnone] at this
    · exact noneFilling_sweepClosed.decideOutcome _ hfree

/-- R48 step 5: a FREE slot becomes FILLING where none is. -/
theorem coherent_takeSlot (o : OpenFields) (hc : capturing s.sweep.state = true) (hi : slotState s i = none)
    (hn : NoneFilling s) (h : s.coherent) : (takeSlot i o s).coherent := by
  obtain ⟨⟨hnodup, hmem, -⟩, hwork, hphase⟩ := h
  have hst (j : Fin 3) : slotState (takeSlot i o s) j = if j = i then some .filling else slotState s j :=
    slotState_setSlot i j ⟨.filling, newRecord o s, [], [], freshDetection⟩ s
  have hout : i ∉ s.capture.order := fun hm => slot_isSome_iff.1 ((hmem i).1 hm) hi
  refine ⟨⟨?_, fun j => ?_, fun j k hj hk => ?_⟩, ?_, phaseAgrees_of_slots (fun _ _ => hc) rfl rfl rfl rfl rfl hphase⟩
  · exact List.nodup_append.2 ⟨hnodup, List.nodup_singleton i, fun a ha b hb => by
      rw [List.mem_singleton.1 hb]
      exact fun e => hout (e ▸ ha)⟩
  · rw [slot_isSome_iff, hst]
    show j ∈ s.capture.order ++ [i] ↔ _
    by_cases hji : j = i
    · simp [hji]
    · simpa [hji, ← slot_isSome_iff] using hmem j
  · rw [hst] at hj hk
    split at hj <;> split at hk
    · simp [*]
    · exact absurd hk (hn k)
    · exact absurd hj (hn j)
    · exact absurd hj (hn j)
  · obtain ⟨hreg, hw, hnq, hqueue, hwriting⟩ := hwork
    refine ⟨fun j => ?_, hw, hnq, fun j => ?_, hwriting⟩
    · rw [hst]
      by_cases hji : j = i
      · subst hji
        simpa [hi] using hreg j
      · simpa [hji] using hreg j
    · rw [hst]
      by_cases hji : j = i
      · subst hji
        simpa [hi] using hqueue j
      · simpa [hji] using hqueue j

/-- From ARMED the end of the sweep needs no drain. -/
theorem coherent_endArmed (cause : EndCause) (hs : s.sweep.state = .armed) (h : s.coherent) :
    (changeSweep .ended cause (discardCaptured s)).coherent := by
  have hb := blocksAgree_discardCaptured (coherent_blocks h)
  obtain ⟨hcap, -, -, hempty, -⟩ := h
  refine ⟨hb.1, hb.2, fun _ i => ?_, fun _ => ?_, fun he => ?_⟩
  · show slotState (discardCaptured s) i ≠ _ ∧ slotState (discardCaptured s) i ≠ _
    rw [slotState_discardCaptured hcap]
    split
    · simp
    · rename_i hc
      simpa [captured] using hc
  · simpa using hempty (.inr (.inl hs))
  · simp at he

theorem coherent_geometryOutcome (h : s.coherent) : (geometryOutcome s).coherent := by
  have hrec := coherent_recordOutcome { seq := s.capture.seq, outcome := .geometry } h
  unfold geometryOutcome
  dsimp only
  split
  · exact coherent_endArmed _ (by simpa [recordOutcome]) hrec
  · exact coherent_enterDraining _ (blocksAgree_discardCaptured (coherent_blocks hrec))

theorem coherent_captureOpenPacket (body : List Byte) (h : s.coherent) : (captureOpenPacket body s).coherent := by
  have hcount : (countOpen (readOpen body) s).coherent := h
  unfold captureOpenPacket captureOpen
  dsimp only
  split
  · have hd := coherent_damageFilling hcount
    split
    · split
      · split
        · exact coherent_takeSlot _ ‹_› (lowestIn_spec ‹_›).1 (noneFilling_damageFilling hcount.1) hd
        · exact coherent_recordOutcome _ hd
      · exact coherent_geometryOutcome hd
    · exact hd
  · exact hcount

theorem storeLine_state (tau : Nat) (d : Direction) (body : List Byte) (f : CapturedFrame) :
    (storeLine tau d body f).state = f.state := rfl

theorem countMissing_state (n : Nat) (f : CapturedFrame) : (countMissing n f).state = f.state := by
  unfold countMissing
  split <;> rfl

theorem coherent_captureLinePacket (body : List Byte) (h : s.coherent) : (captureLinePacket body s).coherent := by
  unfold captureLinePacket captureLine
  split
  · exact h
  · rename_i i hi
    have hfill := (lowestIn_spec hi).1
    have hcap := captured_of_fillingSlot hi
    split
    · exact h
    · rename_i f hf
      dsimp only
      split
      · exact h
      · split
        · exact coherent_damageFrame hcap h
        · have hstate : f.state = .filling := by simpa [slotState, hf] using hfill
          have hnew {tau n : Nat} {d : Direction} : (storeLine tau d body (countMissing n (makeUpRows tau n f))).state = .filling := by
            rw [storeLine_state, countMissing_state, (makeUpRows_record tau n f).1, hstate]
          exact coherent_setCaptured hcap (.inl hnew) (fun _ => hfill) h

theorem coherent_captureShutPacket (h : s.coherent) : (captureShutPacket s).coherent := by
  unfold captureShutPacket captureShut
  split
  · exact h
  · rename_i i hi
    split
    · exact h
    · dsimp only
      split
      · exact coherent_damageFrame (captured_of_fillingSlot hi) h
      · exact coherent_setCaptured (captured_of_fillingSlot hi) (.inr rfl) nofun h

theorem coherent_completeTilePacket (h : s.coherent) : (completeTilePacket s).coherent := by
  unfold completeTilePacket completeTileEnd
  split
  · exact h
  · split
    · exact coherent_testDrain (coherent_congr (s := s) rfl rfl rfl rfl (by simp_all) rfl h)
    · exact h

theorem takeRun_tiles_nil (h : s.ring.tiles = []) : (takeRun s).ring.tiles = [] := by
  unfold takeRun
  split
  · exact h
  · dsimp only
    split <;> simp [h]

theorem coherent_takeRun (h : s.coherent) : (takeRun s).coherent :=
  coherent_congr (s := s) (by simp) (by simp) (by simp) (by simp) takeRun_tiles_nil (by simp) h

/-! ### SWEEP_ABORT frees every slot (R37) -/

theorem get_abortSlot (s : State) (i j : Fin 3) :
    (abortSlot s i).capture.slots.get j = if j = i then none else s.capture.slots.get j := by
  unfold abortSlot
  split
  · exact FrameSlots.get_set _ i j none
  · exact get_discardSlot s i j

theorem get_foldl_abortSlot (l : List (Fin 3)) (s : State) (j : Fin 3) :
    (l.foldl abortSlot s).capture.slots.get j = if j ∈ l then none else s.capture.slots.get j := by
  induction l generalizing s with
  | nil => simp
  | cons i l ih =>
    rw [List.foldl_cons, ih, get_abortSlot]
    by_cases hl : j ∈ l <;> by_cases hi : j = i <;> simp [hl, hi]

theorem order_abortSlot (h : s.capture.slots.get i ≠ none) :
    (abortSlot s i).capture.order = s.capture.order.filter fun j => decide (j ≠ i) := by
  unfold abortSlot
  split
  · rfl
  · exact order_discardSlot h

theorem order_foldl_abortSlot {l : List (Fin 3)} (hn : l.Nodup) (h : ∀ i ∈ l, s.capture.slots.get i ≠ none) :
    (l.foldl abortSlot s).capture.order = s.capture.order.filter fun j => decide (j ∉ l) := by
  induction l generalizing s with
  | nil => simp
  | cons i l ih =>
    obtain ⟨hi, hl⟩ := List.nodup_cons.1 hn
    rw [List.foldl_cons, ih hl, order_abortSlot (h i (by simp)), List.filter_filter]
    · refine List.filter_congr fun j _ => ?_
      simp [Bool.and_comm]
    · intro k hk
      rw [get_abortSlot, if_neg fun e : k = i => hi (e ▸ hk)]
      exact h k (by simp [hk])

@[simp] theorem abortSweep_capture (s : State) :
    (abortSweep s).capture = (s.capture.order.foldl abortSlot s).capture := by
  simp [abortSweep]

theorem get_abortSweep (h : s.captureAgrees) (i : Fin 3) : (abortSweep s).capture.slots.get i = none := by
  rw [abortSweep_capture, get_foldl_abortSlot]
  split
  · rfl
  · by_contra hne
    exact ‹i ∉ s.capture.order› ((h.2.1 i).2 (Option.isSome_iff_ne_none.2 hne))

theorem order_abortSweep (h : s.captureAgrees) : (abortSweep s).capture.order = [] := by
  rw [abortSweep_capture, order_foldl_abortSlot h.1 fun i hi => Option.isSome_iff_ne_none.1 ((h.2.1 i).1 hi)]
  simp

/-- With no frame and nothing registering, queued or resident, outside ARMED, a state is coherent. -/
theorem coherent_of_empty (hx : ∀ i, t.capture.slots.get i = none) (ho : t.capture.order = []) (he : t.reg.engine = .waiting)
    (hc : t.comp = ⟨false, []⟩) (ht : t.ring.tiles = []) (hw : t.sweep.state ≠ .armed) : t.coherent := by
  have hs (i : Fin 3) : slotState t i = none := slotState_eq_none_iff.2 (hx i)
  refine ⟨?_, ?_, ?_⟩
  · simp [State.captureAgrees, ho, hx, hs]
  · simp [State.workAgrees, hs, he, hc]
  · simp [State.phaseAgrees, hs, he, hc, ht, hw]

@[simp] theorem abortSweep_comp (s : State) : (abortSweep s).comp = ⟨false, []⟩ := by
  simp [abortSweep, emptyCompositor]

theorem abortSweep_engine (s : State) : (abortSweep s).reg.engine = .waiting := by
  simp [abortSweep, stopRegistration]

theorem emptyRing_tiles (s : State) : (emptyRing s).ring.tiles = [] := by
  simp [emptyRing]

theorem abortSweep_tiles (s : State) : (abortSweep s).ring.tiles = [] := by
  simp [abortSweep, emptyRing_tiles]

theorem coherent_abortSweep (h : s.coherent) : (abortSweep s).coherent :=
  coherent_of_empty (get_abortSweep h.1) (order_abortSweep h.1) (abortSweep_engine s) (abortSweep_comp s) (abortSweep_tiles s)
    (by simp [abortSweep])

/-! ### The engine and the compositor -/

/-- While a frame is in work or waits for its composite the sweep is between TRACKING and DRAINING. -/
theorem underway_of_work (h : s.coherent) (hw : s.reg.engine ≠ .waiting ∨ s.comp.queue ≠ []) :
    s.sweep.state ≠ .idle ∧ s.sweep.state ≠ .armed ∧ s.sweep.state ≠ .ended := by
  obtain ⟨-, hempty, -⟩ := h.2.2
  refine ⟨fun e => ?_, fun e => ?_, fun e => ?_⟩ <;> obtain ⟨h1, h2, -⟩ := hempty (by simp [e]) <;> simp [h1, h2] at hw

/-- With the blocks in agreement, the phase asks only that no new frame is captured outside the capturing states. -/
theorem coherent_of_underway (hb : BlocksAgree t) (hw : t.sweep.state ≠ .idle ∧ t.sweep.state ≠ .armed ∧ t.sweep.state ≠ .ended)
    (hc : ∀ i, captured t i = true → capturing t.sweep.state = true) : t.coherent := by
  refine ⟨hb.1, hb.2, fun hn i => ?_, fun he => ?_, fun he => absurd he hw.2.1⟩
  · have hi : ¬captured t i = true := fun hi => by simp [hc i hi] at hn
    simpa [captured] using hi
  · simp [hw] at he

/-- R103, R129: the frame in work is freed and the engine WAITING. -/
theorem coherent_dropFrame {r : Registration} (h : s.coherent) (he : s.reg.engine ≠ .waiting) (hi : s.reg.work = some i)
    (hr : r.engine = .waiting) : (freeSlot i { s with reg := r }).coherent := by
  have hst (k : Fin 3) : slotState (freeSlot i { s with reg := r }) k = if k = i then none else slotState s k :=
    slotState_freeSlot i k _
  have hreg : slotState s i = some .registering := (h.2.1.1 i).2 ⟨he, hi⟩
  have hcap : (freeSlot i s).captureAgrees := captureAgrees_freeSlot i h.1
  have hunder := underway_of_work h (.inl he)
  have hcapturing (k : Fin 3) (hk : captured s k = true) := capturing_of_captured h hk
  refine coherent_of_underway ⟨hcap, ?_⟩ hunder fun k hk => ?_
  · obtain ⟨hregs, -, hnodup, hqueue, hwriting⟩ := h.2.1
    refine ⟨fun k => ?_, fun hn => absurd hr hn, hnodup, fun k => ?_, hwriting⟩
    · rw [hst]
      by_cases hk : k = i
      · simp [hk, hr]
      · have : slotState s k ≠ some .registering := fun hs => by
          have := ((hregs k).1 hs).2
          rw [hi] at this
          exact hk (Option.some.inj this).symm
        simp [hk, hr, this]
    · rw [hst]
      by_cases hk : k = i
      · subst hk
        simpa [hreg] using hqueue k
      · simpa [hk] using hqueue k
  · refine hcapturing k ?_
    rw [captured_iff, hst] at hk
    split at hk
    · simp at hk
    · exact captured_iff.2 hk

theorem frameInWork_spec (h : frameInWork s = some (i, f)) : s.reg.work = some i ∧ s.capture.slots.get i = some f := by
  unfold frameInWork at h
  split at h
  · cases h
  · simp only [Option.map_eq_some_iff, Prod.mk.injEq] at h
    obtain ⟨g, hg, rfl, rfl⟩ := h
    exact ⟨‹_›, hg⟩

theorem coherent_endRegistration (votes : List Nat) (r : OutcomeRecord) (h : s.coherent) (he : s.reg.engine ≠ .waiting)
    (hi : s.reg.work = some i) : (endRegistration i votes r s).coherent :=
  coherent_testDrain (coherent_decideOutcome r (coherent_dropFrame h he hi rfl))

theorem coherent_handToPlacement (m : MatchResult) (o : Point) (h : s.coherent) (he : s.reg.engine ≠ .waiting)
    (hi : s.reg.work = some i) (hf : s.capture.slots.get i = some f) : (handToPlacement i f m o s).coherent := by
  have hreg : slotState s i = some .registering := (h.2.1.1 i).2 ⟨he, hi⟩
  have hstate : f.state = .registering := by simpa [slotState, hf] using hreg
  have hst (k : Fin 3) : slotState (handToPlacement i f m o s) k = slotState s k := by
    refine (slotState_setSlot i k { f with detection := .finished m.claims.keypoints (overflowOf f.detection) } _).trans ?_
    split
    · rw [‹k = i›, hreg, hstate]
    · rfl
  have hunder := underway_of_work h (.inl he)
  have hcapturing (k : Fin 3) (hk : captured s k = true) := capturing_of_captured h hk
  refine coherent_of_underway ⟨captureAgrees_congr (s := s) rfl hst h.1, ?_⟩ hunder fun k hk => ?_
  · obtain ⟨hregs, hwork, hnodup, hqueue, hwriting⟩ := h.2.1
    refine ⟨fun k => ?_, fun _ => hwork he, hnodup, fun k => ?_, hwriting⟩
    · rw [hst]
      simpa [he, handToPlacement] using hregs k
    · rw [hst]
      exact hqueue k
  · refine hcapturing k ?_
    rwa [captured_iff, hst, ← captured_iff] at hk

theorem coherent_registrationEnd (hc : canCompleteRegistration s = true) (h : s.coherent) : (registrationEnd s).coherent := by
  unfold registrationEnd
  split
  · exact h
  · rename_i i f hw
    obtain ⟨hi, hf⟩ := frameInWork_spec hw
    have he : s.reg.engine ≠ .waiting := by
      simp only [canCompleteRegistration, Bool.and_eq_true, decide_eq_true_eq] at hc
      simp [hc.1]
    unfold completeRegistration
    dsimp only
    split
    · split
      · exact coherent_endRegistration _ _ h he hi
      · exact coherent_testDrain (coherent_handToPlacement _ _ h he hi hf)
    · exact coherent_endRegistration _ _ h he hi

/-! ### Placing a frame -/

section Placing

variable (o d : Point) (band : Nat) (e g : Int)

theorem slotState_placeFrame (i k : Fin 3) (f : CapturedFrame) (s : State) :
    slotState (placeFrame i f o d band e g s) k = if k = i then some .placed else slotState s k :=
  slotState_setSlot i k { f with state := .placed } _

/-- R132: an idle engine's frame joins the composite queue. -/
theorem blocksAgree_placeFrame (hcap : s.captureAgrees) (hi : slotState s i ≠ none) (hp : slotState s i ≠ some .placed)
    (he : s.reg.engine = .waiting) (hreg : ∀ k, k ≠ i → slotState s k ≠ some .registering)
    (hnodup : (s.comp.queue.map (·.slot)).Nodup) (hqueue : ∀ k, slotState s k = some .placed ↔ k ∈ s.comp.queue.map (·.slot)) :
    BlocksAgree (placeFrame i f o d band e g s) := by
  have hst := slotState_placeFrame o d band e g i
  have hmap : (placeFrame i f o d band e g s).comp.queue.map (·.slot) = s.comp.queue.map (·.slot) ++ [i] :=
    List.map_append
  have hset : (setSlot i { f with state := .placed } s).captureAgrees := captureAgrees_setSlot hi nofun hcap
  refine ⟨hset, fun k => ?_, fun hn => absurd he hn, ?_, fun k => ?_, fun _ => List.append_ne_nil_of_right_ne_nil _ (by simp)⟩
  · rw [hst]
    have hengine : ¬((placeFrame i f o d band e g s).reg.engine ≠ .waiting ∧ (placeFrame i f o d band e g s).reg.work = some k) :=
      fun hw => hw.1 he
    by_cases hk : k = i
    · simpa [hk] using hengine
    · simpa [hk, hreg] using hengine
  · rw [hmap]
    refine List.nodup_append.2 ⟨hnodup, List.nodup_singleton i, fun a ha b hb => ?_⟩
    rw [List.mem_singleton.1 hb]
    exact fun hab => hp ((hqueue i).2 (hab ▸ ha))
  · rw [hst, hmap]
    by_cases hk : k = i
    · simp [hk]
    · simpa [hk] using hqueue k

end Placing

theorem oldestIn_spec {st : SlotState} (h : oldestIn st s = some i) : slotState s i = some st := by
  simpa using List.find?_some h

theorem coherent_takeSeed (hs : s.sweep.state = .armed) (hi : slotState s i = some .ready) (h : s.coherent) :
    (takeSeed i f s).coherent := by
  obtain ⟨hwait, -, -⟩ := h.2.2.2.1 (.inr (.inl hs))
  obtain ⟨hregs, -, hnodup, hqueue, -⟩ := h.2.1
  refine coherent_takeWidthLimit (coherent_decideOutcome_of_blocks _ ?_ (.inr (.inr ⟨hs, rfl⟩)))
  refine blocksAgree_placeFrame (s := { s with placement := { s.placement with e0 := f.record.exposure } }) _ _ _ _ _ h.1 ?_ ?_ hwait
    (fun k _ hk => ((hregs k).1 hk).1 hwait) hnodup hqueue
  · show slotState s i ≠ none
    simp [hi]
  · show slotState s i ≠ some .placed
    simp [hi]

/-- R101: a READY frame becomes REGISTERING with the engine. -/
theorem coherent_takeToRegister (he : s.reg.engine = .waiting) (hc : s.sweep.state = .tracking ∨ s.sweep.state = .coasting)
    (hi : slotState s i = some .ready) (h : s.coherent) : (takeToRegister i f s).coherent := by
  have hst (k : Fin 3) : slotState (takeToRegister i f s) k = if k = i then some .registering else slotState s k :=
    slotState_setSlot i k { f with state := .registering } _
  have hset : (setSlot i { f with state := .registering } s).captureAgrees := captureAgrees_setSlot (by simp [hi]) nofun h.1
  obtain ⟨hregs, -, hnodup, hqueue, hwriting⟩ := h.2.1
  refine coherent_of_running ⟨hset, fun k => ?_, fun _ => rfl, hnodup, fun k => ?_, hwriting⟩ hc
  · rw [hst]
    have hother : slotState s k ≠ some .registering := fun hk => ((hregs k).1 hk).1 he
    by_cases hk : k = i
    · simp [hk, takeToRegister]
    · simp [hk, hother, takeToRegister, Ne.symm hk]
  · rw [hst]
    show _ ↔ k ∈ s.comp.queue.map (·.slot)
    by_cases hk : k = i
    · subst hk
      simpa [hi] using hqueue k
    · simpa [hk] using hqueue k

theorem coherent_takeFrame (hc : canTakeFrame s = true) (h : s.coherent) : (takeFrame s).coherent := by
  simp only [canTakeFrame, Bool.and_eq_true, decide_eq_true_eq] at hc
  obtain ⟨⟨he, -⟩, hcap⟩ := hc
  unfold takeFrame
  split
  · exact h
  · rename_i i hi
    split
    · exact h
    · split
      · exact coherent_takeSeed ‹_› (oldestIn_spec hi) h
      · refine coherent_takeToRegister he ?_ (oldestIn_spec hi) h
        exact ((capturing_iff _).1 hcap).resolve_left ‹_›

theorem coherent_refuseFrame (o : FrameOutcome) (x : Handover) (h : s.coherent) (he : s.reg.engine ≠ .waiting)
    (hi : s.reg.work = some i) : (refuseFrame o i f x s).coherent :=
  coherent_testDrain (coherent_decideOutcome _ (coherent_dropFrame h he hi rfl))

theorem coherent_compositeFrame (x : Handover) (band : Nat) (e : Int) (h : s.coherent) (he : s.reg.engine ≠ .waiting)
    (hi : s.reg.work = some i) : (compositeFrame i f x band e s).coherent := by
  obtain ⟨hregs, -, hnodup, hqueue, -⟩ := h.2.1
  have hreg : slotState s i = some .registering := (hregs i).2 ⟨he, hi⟩
  have hunder := underway_of_work h (.inl he)
  have hcapturing (k : Fin 3) (hk : captured s k = true) := capturing_of_captured h hk
  have hplaced (g : Int) : (placeFrame i f x.origin x.delta band e g (releaseEngine s)).coherent := by
    refine coherent_of_underway (blocksAgree_placeFrame (s := releaseEngine s) _ _ _ _ _ h.1 ?_ ?_ rfl (fun k hk hs => ?_) hnodup hqueue)
      hunder fun k hk => ?_
    · show slotState s i ≠ none
      simp [hreg]
    · show slotState s i ≠ some .placed
      simp [hreg]
    · have := ((hregs k).1 hs).2
      rw [hi] at this
      exact hk (Option.some.inj this).symm
    · rw [captured_iff, slotState_placeFrame] at hk
      split at hk
      · simp at hk
      · exact hcapturing k (captured_iff.2 hk)
  exact coherent_testDrain (coherent_examineTiles (coherent_takeWidthLimit (coherent_decideOutcome _ (hplaced _))))

theorem coherent_placementEvent (hc : canPlace s = true) (h : s.coherent) : (placementEvent s).coherent := by
  have he : s.reg.engine ≠ .waiting := by
    simp only [canPlace, Bool.and_eq_true, decide_eq_true_eq] at hc
    simp [hc.1.1]
  unfold placementEvent
  split
  · rename_i i f x hw _
    obtain ⟨hi, -⟩ := frameInWork_spec hw
    unfold placeHandover
    dsimp only
    split
    · exact coherent_refuseFrame _ _ h he hi
    · split
      · exact coherent_refuseFrame _ _ h he hi
      · split
        · exact coherent_compositeFrame _ _ _ h he hi
        · exact coherent_refuseFrame _ _ h he hi
  · exact h

theorem coherent_takeComposite (hc : canTakeComposite s = true) (h : s.coherent) : (takeComposite s).coherent := by
  have hq : s.comp.queue ≠ [] := by
    simp only [canTakeComposite, Bool.and_eq_true, Bool.not_eq_true', List.isEmpty_eq_false_iff] at hc
    exact hc.2
  obtain ⟨hcap, ⟨hregs, hwork, hnodup, hqueue, -⟩, hphase⟩ := h
  exact ⟨hcap, ⟨hregs, hwork, hnodup, hqueue, fun _ => hq⟩, hphase⟩

/-- R140: the head entry's slot is freed as the entry leaves. -/
theorem coherent_completeComposite (h : s.coherent) : (completeComposite s).coherent := by
  unfold completeComposite
  split
  · exact h
  · rename_i en rest hq
    refine coherent_testDrain (coherent_examineTiles ?_)
    have hpaint : (paintEntry en s).capture = s.capture ∧ (paintEntry en s).reg = s.reg ∧ (paintEntry en s).sweep = s.sweep := by
      unfold paintEntry
      split <;> exact ⟨rfl, rfl, rfl⟩
    obtain ⟨hx, hr, hw⟩ := hpaint
    have hst (k : Fin 3) : slotState (freeSlot en.slot (changeWriters (· - 1) en.firstTile en.lastTile (paintEntry en s))) k =
        if k = en.slot then none else slotState s k :=
      (slotState_freeSlot en.slot k _).trans (by rw [slotState_congr (t := changeWriters _ _ _ (paintEntry en s)) hx])
    obtain ⟨hregs, hwork, hnodup, hqueue, -⟩ := h.2.1
    rw [hq, List.map_cons] at hnodup hqueue
    obtain ⟨hout, hrest⟩ := List.nodup_cons.1 hnodup
    have hplaced : slotState s en.slot = some .placed := (hqueue _).2 (by simp)
    refine coherent_of_underway ⟨?_, fun k => ?_, ?_, hrest, fun k => ?_, nofun⟩ ?_ fun k hk => ?_
    · exact captureAgrees_freeSlot en.slot (captureAgrees_congr (by rw [← hx]; rfl) (slotState_congr (by rw [← hx]; rfl)) h.1)
    · refine (Eq.congr_left (hst k)).trans ?_
      show _ ↔ (paintEntry en s).reg.engine ≠ _ ∧ (paintEntry en s).reg.work = _
      rw [hr]
      by_cases hk : k = en.slot
      · subst hk
        simpa [hplaced] using hregs en.slot
      · simpa [hk] using hregs k
    · show (paintEntry en s).reg.engine ≠ _ → (paintEntry en s).reg.work.isSome = true
      rw [hr]
      exact hwork
    · refine (Eq.congr_left (hst k)).trans ?_
      by_cases hk : k = en.slot
      · subst hk
        simpa using hout
      · simpa [hk] using hqueue k
    · show (paintEntry en s).sweep.state ≠ _ ∧ (paintEntry en s).sweep.state ≠ _ ∧ (paintEntry en s).sweep.state ≠ _
      rw [hw]
      exact underway_of_work h (.inr (by simp [hq]))
    · show capturing (paintEntry en s).sweep.state = true
      rw [hw]
      refine capturing_of_captured (i := k) h (captured_iff.2 ?_)
      replace hk : (if k = en.slot then none else slotState s k) = some .filling ∨
          (if k = en.slot then none else slotState s k) = some .ready := by
        rw [← hst k]
        exact captured_iff.1 hk
      split at hk
      · simp at hk
      · exact hk

/-! ### The obligation -/

theorem coherent_sweepSide : SweepSide c State.coherent where
  damageFilling _ := coherent_damageFilling
  captureOpenPacket body _ := coherent_captureOpenPacket body
  captureLinePacket body _ := coherent_captureLinePacket body
  captureShutPacket _ := coherent_captureShutPacket
  completeTilePacket _ := coherent_completeTilePacket
  takeRun _ _ := coherent_takeRun
  endArmed _ := coherent_endArmed _
  endRunning _ _ h := coherent_enterDraining _ (blocksAgree_discardCaptured (coherent_blocks h))
  abortSweep _ _ := coherent_abortSweep
  takeFrame _ _ := coherent_takeFrame
  registrationEnd _ := coherent_registrationEnd
  placementEvent _ _ := coherent_placementEvent
  takeComposite _ := coherent_takeComposite
  completeComposite _ _ _ := coherent_completeComposite

theorem coherent_cold (p : Power) (m : Mode) (b : Bool) (ts : Tables) (st : Store) (n : Nat) (q : List Instr) :
    (State.cold p m b ts st n q).coherent :=
  coherent_of_empty (fun i => by fin_cases i <;> rfl) rfl rfl rfl rfl nofun

theorem coherent_kept (c : Instr) : Kept c State.coherent where
  toSweepSide := coherent_sweepSide
  parts s t part h := by
    cases part with
    | powerOn => exact coherent_cold ..
    | powerLoss => exact coherent_cold ..
    | arbitrate => exact coherent_congr (s := s) (by simp) (by simp) (by simp) (by simp) (by simp) (by simp) h
    | resetEngine =>
      refine coherent_of_empty (fun i => ?_) ?_ ?_ ?_ ?_ ?_
      · fin_cases i <;> simp [resetUnits, resetBlocks, FrameSlots.allFree, FrameSlots.get]
      all_goals simp [resetUnits, resetBlocks, Registration.zero, Sweep.zero, emptyRing_tiles]
    | armSweep d ps hc hs =>
      have hempty := h.2.2.2.1 (.inl hs)
      exact ⟨h.1, h.2.1, nofun, fun _ => hempty, fun _ => rfl⟩
    | releaseSweep hc hs =>
      have hempty := h.2.2.2.1 (.inr (.inr hs))
      exact ⟨h.1, h.2.1, fun _ => h.2.2.1 (by simp [hs, capturing]), fun _ => hempty, nofun⟩
    | _ => exact h

/-- In IDLE and ENDED no frame is captured, none registers and none waits for its composite. -/
theorem free_of_coherent (h : s.coherent) (hs : s.sweep.state = .idle ∨ s.sweep.state = .ended) (i : Fin 3) :
    s.capture.slots.get i = none := by
  obtain ⟨-, ⟨hregs, -, -, hqueue, -⟩, hfree, hempty, -⟩ := h
  obtain ⟨he, hq, -⟩ := hempty (hs.imp_right .inr)
  obtain ⟨hf, hr⟩ := hfree (by rcases hs with e | e <;> simp [e, capturing]) i
  have hreg : slotState s i ≠ some .registering := fun e => ((hregs i).1 e).1 he
  have hplaced : slotState s i ≠ some .placed := fun e => by simpa [hq] using (hqueue i).1 e
  rw [← slotState_eq_none_iff]
  cases hst : slotState s i with
  | none => rfl
  | some st => cases st <;> contradiction

/-- Settles O51: coherence through every part of a step. -/
theorem everyStepKeepsTheSweepSideCoherent : Obligations.EveryStepKeepsTheSweepSideCoherent :=
  ⟨fun _ _ hs h => step_keeps coherent_kept (fun _ _ h => h) h hs, fun _ h hs => free_of_coherent h hs⟩

end Sys2Proof.Proofs
end

section
/-! PROOF. O52 (R131, R136, R147, R148, R151): every step keeps the ring ordered, at most 32 tiles in it, its queue the list of the
SEALED tiles, and the writer counts true. -/

namespace Sys2Proof.Proofs

open Sys2Proof.Machine

variable {s t : State} {c : Instr}

/-- The ring agrees with itself and with E, its writer counts with the composite queue, and it has room for its tiles. -/
def RingOk (s : State) : Prop := s.ringAgrees ∧ s.writersAgree ∧ s.ring.tiles.length ≤ 32

theorem ringOk_congr (ht : t.ring.tiles = s.ring.tiles) (hq : t.ring.sealedQueue = s.ring.sealedQueue)
    (hr : t.ring.run = s.ring.run) (hc : t.comp.queue = s.comp.queue) (he : t.placement.e = s.placement.e) (h : RingOk s) :
    RingOk t := by
  unfold RingOk State.ringAgrees State.writersAgree
  rwa [ht, hq, hr, hc, he]

/-- An empty ring with an empty composite queue is in order. -/
theorem ringOk_of_empty (ht : t.ring.tiles = []) (hq : t.ring.sealedQueue = []) (hc : t.comp.queue = [])
    (he : -1 ≤ t.placement.e) : RingOk t := by
  simp [RingOk, State.ringAgrees, State.writersAgree, ht, hq, hc, he]

/-- Resident tiles of one index are one tile. -/
theorem eq_of_index_eq {l : List Tile} (h : (l.map (·.index)).Pairwise (· < ·)) {a b : Tile} (ha : a ∈ l) (hb : b ∈ l)
    (hab : a.index = b.index) : a = b := by
  have hnodup : (l.map (·.index)).Nodup := h.imp Nat.ne_of_lt
  exact List.inj_on_of_nodup_map hnodup ha hb hab

theorem sealedQueue_nil_of_tiles_nil (h : s.ringAgrees) (ht : s.ring.tiles = []) : s.ring.sealedQueue = [] := by
  obtain ⟨-, -, -, -, hqueue, -⟩ := h
  refine List.eq_nil_iff_forall_not_mem.2 fun n hn => ?_
  obtain ⟨u, hu, -⟩ := (hqueue n).1 hn
  simp [ht] at hu

/-! ### A tile updated in place -/

/-- Tiles updated without change of index keep their order. -/
theorem map_index_map {g : Tile → Tile} (hg : ∀ u, (g u).index = u.index) (l : List Tile) :
    (l.map g).map (·.index) = l.map (·.index) := by
  rw [List.map_map]
  exact List.map_congr_left fun u _ => hg u

/-! ### The examination of the tiles (R150, R151) -/

theorem sealable_iff_opened (h : sealable s u = true) : u.state = .opened ∧ u.writers = 0 := by
  simp only [sealable, Bool.and_eq_true, decide_eq_true_eq] at h
  exact h.1

/-- A tile that seals. -/
def sealedIf (b : Bool) (u : Tile) : Tile := if b then { u with state := .sealed } else u

@[simp] theorem sealedIf_index (b : Bool) (u : Tile) : (sealedIf b u).index = u.index := by cases b <;> rfl
@[simp] theorem sealedIf_writers (b : Bool) (u : Tile) : (sealedIf b u).writers = u.writers := by cases b <;> rfl
theorem sealedIf_true (u : Tile) : sealedIf true u = { u with state := .sealed } := rfl
theorem sealedIf_false (u : Tile) : sealedIf false u = u := rfl

/-- In a ring in order, an examination seals exactly the tiles that meet the condition. -/
theorem examineTiles_tiles (h : (s.ring.tiles.map (·.index)).Pairwise (· < ·)) :
    (examineTiles s).ring.tiles = s.ring.tiles.map fun u => sealedIf (sealable s u) u := by
  rw [examineTiles, (foldl_sealTile_spec _ s).2]
  refine List.map_congr_left fun u hu => ?_
  have hiff : (∃ t ∈ s.ring.tiles.filter (sealable s), u.index = t.index) ↔ sealable s u = true := by
    constructor
    · rintro ⟨t, ht, hut⟩
      obtain ⟨hmem, hseal⟩ := List.mem_filter.1 ht
      rwa [eq_of_index_eq h hu hmem hut]
    · exact fun hseal => ⟨u, List.mem_filter.2 ⟨hu, hseal⟩, rfl⟩
  cases hseal : sealable s u with
  | true => exact if_pos (hiff.2 hseal)
  | false => exact if_neg fun e => by simp [hiff.1 e] at hseal

theorem examineTiles_sealedQueue (s : State) : (examineTiles s).ring.sealedQueue =
    s.ring.sealedQueue ++ (s.ring.tiles.filter (sealable s)).map (·.index) := (foldl_sealTile_spec _ s).1

theorem ringOk_examineTiles (h : RingOk s) : RingOk (examineTiles s) := by
  obtain ⟨⟨hlow, hsorted, hbelow, hnodup, hqueue, hemit, hclosed⟩, ⟨hwriters, hreach⟩, hroom⟩ := h
  have hopened {u : Tile} (hs : sealable s u = true) := sealable_iff_opened hs
  refine ⟨⟨?_, ?_, ?_, ?_, fun n => ?_, ?_, ?_⟩, ⟨?_, ?_⟩, ?_⟩
  · simpa using hlow
  · rw [examineTiles_tiles hsorted, map_index_map fun u => sealedIf_index _ u]
    exact hsorted
  · rw [examineTiles_tiles hsorted, examineTiles_placement]
    simpa using hbelow
  · rw [examineTiles_sealedQueue, List.nodup_append]
    refine ⟨hnodup, ?_, ?_⟩
    · exact ((hsorted.imp Nat.ne_of_lt).sublist (List.Sublist.map _ List.filter_sublist) : List.Nodup _)
    · rintro a ha b hb rfl
      obtain ⟨v, hv, hva, hsealed⟩ := (hqueue a).1 ha
      obtain ⟨u, hu, hua⟩ := List.mem_map.1 hb
      obtain ⟨hmem, hseal⟩ := List.mem_filter.1 hu
      rw [eq_of_index_eq hsorted hv hmem (hva.trans hua.symm), (hopened hseal).1] at hsealed
      cases hsealed
  · rw [examineTiles_sealedQueue, examineTiles_tiles hsorted, List.mem_append, hqueue]
    constructor
    · rintro (⟨v, hv, hva, hsealed⟩ | hn)
      · refine ⟨_, List.mem_map_of_mem hv, by simpa using hva, ?_⟩
        cases sealable s v
        · exact hsealed
        · rfl
      · obtain ⟨u, hu, hua⟩ := List.mem_map.1 hn
        obtain ⟨hmem, hseal⟩ := List.mem_filter.1 hu
        exact ⟨_, List.mem_map_of_mem hmem, by simpa using hua, by rw [hseal]; rfl⟩
    · rintro ⟨w, hw, hwn, hsealed⟩
      obtain ⟨v, hv, rfl⟩ := List.mem_map.1 hw
      rw [sealedIf_index] at hwn
      cases hseal : sealable s v with
      | true => exact .inr (List.mem_map.2 ⟨v, List.mem_filter.2 ⟨hv, hseal⟩, hwn⟩)
      | false =>
        rw [hseal] at hsealed
        exact .inl ⟨v, hv, hwn, hsealed⟩
  · rw [examineTiles_tiles hsorted, examineTiles_ring_run]
    intro w hw hstate
    obtain ⟨v, hv, rfl⟩ := List.mem_map.1 hw
    cases hseal : sealable s v with
    | true => rw [hseal] at hstate; cases hstate
    | false => rw [hseal] at hstate; exact hemit v hv hstate
  · rw [examineTiles_tiles hsorted]
    intro w hw hstate
    obtain ⟨v, hv, rfl⟩ := List.mem_map.1 hw
    cases hseal : sealable s v with
    | true => exact (hopened hseal).2
    | false => rw [hseal] at hstate; exact hclosed v hv hstate
  · rw [examineTiles_tiles hsorted, examineTiles_comp]
    intro w hw
    obtain ⟨v, hv, rfl⟩ := List.mem_map.1 hw
    simpa [CompositeEntry.covers] using hwriters v hv
  · rw [examineTiles_comp, examineTiles_placement]
    exact hreach
  · rw [examineTiles_tiles hsorted, List.length_map]
    exact hroom

theorem ringOk_sweepClosed : SweepClosed RingOk := by
  intro s t part h
  cases part with
  | examineTiles => exact ringOk_examineTiles h
  | _ => exact h

theorem ringOk_captureClosed : CaptureClosed RingOk := by
  intro s t part h
  cases part <;> exact h

theorem ringOk_outcomeClosed : OutcomeClosed RingOk := ringOk_sweepClosed.outcomeClosed ringOk_captureClosed

theorem ringOk_testDrain (h : RingOk s) : RingOk (testDrain s) := ringOk_outcomeClosed.testDrain s h

theorem ringOk_takeWidthLimit (h : RingOk s) : RingOk (takeWidthLimit s) := ringOk_outcomeClosed.takeWidthLimit h

/-! ### The run's tile (R157, R161) -/

/-- R157: the head sealed tile becomes the run's. -/
theorem ringOk_takeRun (hrun : s.ring.run = none) (h : RingOk s) : RingOk (takeRun s) := by
  obtain ⟨⟨hlow, hsorted, hbelow, hnodup, hqueue, hemit, hclosed⟩, ⟨hwriters, hreach⟩, hroom⟩ := h
  cases hq : s.ring.sealedQueue with
  | nil => rw [takeRun, hq]; exact ⟨⟨hlow, hsorted, hbelow, hnodup, hqueue, hemit, hclosed⟩, ⟨hwriters, hreach⟩, hroom⟩
  | cons n rest =>
    rw [hq] at hnodup hqueue
    obtain ⟨hout, hrest⟩ := List.nodup_cons.1 hnodup
    let g := fun u : Tile => if u.index = n then { u with state := .emitting } else u
    have hg (u : Tile) : (g u).index = u.index ∧ (g u).writers = u.writers := by
      dsimp only [g]
      split <;> exact ⟨rfl, rfl⟩
    obtain ⟨v, hv, hvn, hvs⟩ := (hqueue n).1 (by simp)
    have hfields : (takeRun s).ring.tiles = s.ring.tiles.map g ∧ (takeRun s).ring.sealedQueue = rest ∧
        (takeRun s).ring.run = some (newRun n s) := by
      rw [takeRun, hq]
      dsimp only
      split <;> simp [g]
    obtain ⟨htiles, hsealed, hnew⟩ := hfields
    refine ⟨⟨?_, ?_, ?_, ?_, fun m => ?_, ?_, ?_⟩, ⟨?_, ?_⟩, ?_⟩
    · simpa using hlow
    · rwa [htiles, map_index_map fun u => (hg u).1]
    · rw [htiles, takeRun_placement]
      intro w hw
      obtain ⟨u, hu, rfl⟩ := List.mem_map.1 hw
      rw [(hg u).1]
      exact hbelow u hu
    · rwa [hsealed]
    · rw [htiles, hsealed]
      constructor
      · intro hm
        obtain ⟨u, hu, hum, hus⟩ := (hqueue m).1 (List.mem_cons_of_mem n hm)
        have hne : u.index ≠ n := fun e => hout (by rwa [← e, hum])
        exact ⟨u, List.mem_map.2 ⟨u, hu, if_neg hne⟩, hum, hus⟩
      · rintro ⟨w, hw, hwm, hws⟩
        obtain ⟨u, hu, rfl⟩ := List.mem_map.1 hw
        by_cases hun : u.index = n
        · simp [g, hun] at hws
        · simp only [g, hun, if_false] at hwm hws
          refine ((List.mem_cons.1 ((hqueue m).2 ⟨u, hu, hwm, hws⟩)).resolve_left fun e => ?_)
          exact hun (hwm.trans e)
    · rw [htiles, hnew]
      intro w hw hstate
      obtain ⟨u, hu, rfl⟩ := List.mem_map.1 hw
      by_cases hun : u.index = n
      · exact ⟨_, rfl, by rw [(hg u).1, hun]; rfl⟩
      · simp only [g, hun, if_false] at hstate
        obtain ⟨r, hr, -⟩ := hemit u hu hstate
        rw [hrun] at hr
        cases hr
    · rw [htiles]
      intro w hw hstate
      obtain ⟨u, hu, rfl⟩ := List.mem_map.1 hw
      rw [(hg u).2]
      by_cases hun : u.index = n
      · rw [eq_of_index_eq hsorted hu hv (hun.trans hvn.symm)]
        exact hclosed v hv (by simp [hvs])
      · simp only [g, hun, if_false] at hstate
        exact hclosed u hu hstate
    · rw [htiles, takeRun_comp]
      intro w hw
      obtain ⟨u, hu, rfl⟩ := List.mem_map.1 hw
      simpa [CompositeEntry.covers, hg u] using hwriters u hu
    · rw [takeRun_comp, takeRun_placement]
      exact hreach
    · rw [htiles, List.length_map]
      exact hroom

/-- R161: the run's tile leaves the ring as its last packet completes. -/
theorem ringOk_completeTileEnd {r : Run} (hrun : s.ring.run = some r) (h : RingOk s) : RingOk (completeTileEnd r s) := by
  obtain ⟨⟨hlow, hsorted, hbelow, hnodup, hqueue, hemit, hclosed⟩, ⟨hwriters, hreach⟩, hroom⟩ := h
  refine ringOk_testDrain ⟨⟨hlow, hsorted.sublist (List.filter_sublist.map _), fun u hu => hbelow u (List.mem_filter.1 hu).1, hnodup,
    fun n => ?_, fun u hu hstate => ?_, fun u hu => hclosed u (List.mem_filter.1 hu).1⟩,
    ⟨fun u hu => hwriters u (List.mem_filter.1 hu).1, hreach⟩, (List.length_filter_le _ _).trans hroom⟩
  · refine (hqueue n).trans ⟨fun ⟨u, hu, hun, hus⟩ => ?_, fun ⟨u, hu, hun⟩ => ⟨u, (List.mem_filter.1 hu).1, hun⟩⟩
    exact ⟨u, List.mem_filter.2 ⟨hu, by simp [hus]⟩, hun, hus⟩
  · obtain ⟨hmem, hkeep⟩ := List.mem_filter.1 hu
    obtain ⟨r', hr, htile⟩ := hemit u hmem hstate
    rw [hrun] at hr
    cases hr
    simp [hstate, htile] at hkeep

theorem advanceRun_tile (hc : Nat) (r : Run) : (advanceRun hc r).tile = r.tile := by
  unfold advanceRun
  split <;> rfl

/-- A run replaced by one of the same tile. -/
theorem ringOk_setRun {r r' : Run} (hrun : s.ring.run = some r) (htile : r'.tile = r.tile) (h : RingOk s) :
    RingOk { s with ring := { s.ring with run := some r' } } := by
  obtain ⟨⟨hlow, hsorted, hbelow, hnodup, hqueue, hemit, hclosed⟩, hrest⟩ := h
  refine ⟨⟨hlow, hsorted, hbelow, hnodup, hqueue, fun u hu hstate => ?_, hclosed⟩, hrest⟩
  obtain ⟨r'', hr, hu'⟩ := hemit u hu hstate
  rw [hrun] at hr
  cases hr
  exact ⟨r', rfl, htile.trans hu'⟩

theorem ringOk_completeTilePacket (h : RingOk s) : RingOk (completeTilePacket s) := by
  unfold completeTilePacket
  split
  · exact h
  · split
    · exact ringOk_completeTileEnd ‹_› h
    · exact ringOk_setRun ‹_› (advanceRun_tile _ _) h

/-! ### A frame placed (R132 to R136) -/

/-- The tiles from `lo` to `hi`, fresh. -/
def freshTiles (hc : Nat) (lo hi : Int) : List Tile :=
  (List.range (hi + 1 - lo).toNat).map fun n => freshTile hc (lo.toNat + n)

theorem mem_freshTiles {hc : Nat} {lo hi : Int} (hlo : 0 ≤ lo) {u : Tile} (hu : u ∈ freshTiles hc lo hi) :
    ∃ n, u = freshTile hc n ∧ lo ≤ n ∧ (n : Int) ≤ hi := by
  obtain ⟨k, hk, rfl⟩ := List.mem_map.1 hu
  rw [List.mem_range] at hk
  exact ⟨_, rfl, by omega, by omega⟩

theorem freshTiles_sorted (hc : Nat) (lo hi : Int) : ((freshTiles hc lo hi).map (·.index)).Pairwise (· < ·) := by
  rw [freshTiles, List.map_map, List.pairwise_map]
  exact List.pairwise_lt_range.imp fun h => Nat.add_lt_add_left h _

/-- R136: a tile whose writer count is raised by one where it lies from `lo` to `hi`. -/
def raisedIn (lo hi : Nat) (u : Tile) : Tile := if lo ≤ u.index ∧ u.index ≤ hi then { u with writers := u.writers + 1 } else u

@[simp] theorem raisedIn_index (lo hi : Nat) (u : Tile) : (raisedIn lo hi u).index = u.index := by
  unfold raisedIn; split <;> rfl
@[simp] theorem raisedIn_state (lo hi : Nat) (u : Tile) : (raisedIn lo hi u).state = u.state := by
  unfold raisedIn; split <;> rfl

theorem raisedIn_of_outside {lo hi : Nat} {u : Tile} (h : ¬(lo ≤ u.index ∧ u.index ≤ hi)) : raisedIn lo hi u = u := if_neg h

theorem raisedIn_writers {en : CompositeEntry} (u : Tile) :
    (raisedIn en.firstTile en.lastTile u).writers = u.writers + (en.covers u).toNat := by
  unfold raisedIn CompositeEntry.covers
  split <;> simp [*]

section Placing

variable (i : Fin 3) (f : CapturedFrame) (o d : Point) (band : Nat) (e g : Int)

/-- The entry that a placed frame appends to the composite queue. -/
def placedEntry (i : Fin 3) (o : Point) (band : Nat) (e g : Int) (s : State) : CompositeEntry :=
  ⟨i, o, s.placement.e, band, e, g, (firstWritten s.placement.e band / 64).toNat, (e / 64).toNat⟩

theorem placeFrame_tiles (s : State) : (placeFrame i f o d band e g s).ring.tiles =
    (s.ring.tiles ++ freshTiles s.sweep.hc (s.placement.e / 64 + 1) (e / 64)).map
      (raisedIn (firstWritten s.placement.e band / 64).toNat (e / 64).toNat) := rfl

theorem placeFrame_queue (s : State) : (placeFrame i f o d band e g s).comp.queue =
    s.comp.queue ++ [placedEntry i o band e g s] := rfl

/-- R131, R136: a frame that raises E, whose range reaches only OPEN resident tiles, and whose new tiles have room. -/
theorem ringOk_placeFrame (he : s.placement.e < e)
    (hopen : ∀ u ∈ s.ring.tiles, firstWritten s.placement.e band / 64 ≤ u.index → u.state = .opened)
    (hroom : s.ring.tiles.length + (e / 64 - s.placement.e / 64).toNat ≤ 32) (h : RingOk s) :
    RingOk (placeFrame i f o d band e g s) := by
  obtain ⟨⟨hlow, hsorted, hbelow, hnodup, hqueue, hemit, hclosed⟩, ⟨hwriters, hreach⟩, -⟩ := h
  have hfresh {u : Tile} (hu : u ∈ freshTiles s.sweep.hc (s.placement.e / 64 + 1) (e / 64)) :=
    mem_freshTiles (by omega) hu
  have htiles := placeFrame_tiles i f o d band e g s
  have hcomp := placeFrame_queue i f o d band e g s
  refine ⟨⟨?_, ?_, ?_, hnodup, fun n => (hqueue n).trans ?_, ?_, ?_⟩, ⟨?_, ?_⟩, ?_⟩
  · show -1 ≤ e
    omega
  · rw [htiles, map_index_map fun u => raisedIn_index _ _ u, List.map_append, List.pairwise_append]
    refine ⟨hsorted, freshTiles_sorted _ _ _, fun a ha b hb => ?_⟩
    obtain ⟨u, hu, rfl⟩ := List.mem_map.1 ha
    obtain ⟨v, hv, rfl⟩ := List.mem_map.1 hb
    obtain ⟨n, rfl, hn, -⟩ := hfresh hv
    have := hbelow u hu
    show u.index < n
    omega
  · rw [htiles]
    intro w hw
    show (64 * w.index : Int) ≤ e
    obtain ⟨u, hu, rfl⟩ := List.mem_map.1 hw
    rw [raisedIn_index]
    rcases List.mem_append.1 hu with hu | hu
    · have := hbelow u hu
      omega
    · obtain ⟨n, rfl, -, hn⟩ := hfresh hu
      show (64 * n : Int) ≤ e
      omega
  · rw [htiles]
    constructor
    · rintro ⟨u, hu, hun, hus⟩
      exact ⟨_, List.mem_map_of_mem (List.mem_append_left _ hu), by simpa using hun, by simpa using hus⟩
    · rintro ⟨w, hw, hwn, hws⟩
      obtain ⟨u, hu, rfl⟩ := List.mem_map.1 hw
      rw [raisedIn_index] at hwn
      rw [raisedIn_state] at hws
      rcases List.mem_append.1 hu with hu | hu
      · exact ⟨u, hu, hwn, hws⟩
      · obtain ⟨n, rfl, -⟩ := hfresh hu
        cases hws
  · rw [htiles]
    intro w hw hws
    obtain ⟨u, hu, rfl⟩ := List.mem_map.1 hw
    rw [raisedIn_state] at hws
    rw [raisedIn_index]
    rcases List.mem_append.1 hu with hu | hu
    · exact hemit u hu hws
    · obtain ⟨n, rfl, -⟩ := hfresh hu
      cases hws
  · rw [htiles]
    intro w hw hws
    obtain ⟨u, hu, rfl⟩ := List.mem_map.1 hw
    rw [raisedIn_state] at hws
    rcases List.mem_append.1 hu with hu | hu
    · rw [raisedIn_of_outside fun hin => hws (hopen u hu (by omega))]
      exact hclosed u hu hws
    · obtain ⟨n, rfl, -⟩ := hfresh hu
      exact absurd rfl hws
  · rw [htiles, hcomp]
    intro w hw
    obtain ⟨u, hu, rfl⟩ := List.mem_map.1 hw
    have hcount : u.writers = s.comp.queue.countP fun en => en.covers u := by
      rcases List.mem_append.1 hu with hu | hu
      · exact hwriters u hu
      · obtain ⟨n, rfl, hn, -⟩ := hfresh hu
        refine (List.countP_eq_zero.2 fun en hen hcov => ?_).symm
        have hlast := hreach en hen
        have hn' : en.firstTile ≤ n ∧ n ≤ en.lastTile := of_decide_eq_true hcov
        omega
    have hsame (en : CompositeEntry) (lo hi : Nat) : en.covers (raisedIn lo hi u) = en.covers u := by
      simp [CompositeEntry.covers]
    refine (raisedIn_writers (en := placedEntry i o band e g s) u).trans ?_
    rw [List.countP_append, hcount]
    simp only [hsame, List.countP_singleton]
    cases (placedEntry i o band e g s).covers u <;> rfl
  · rw [hcomp]
    intro en hen
    show (64 * en.lastTile : Int) ≤ e
    rcases List.mem_append.1 hen with hen | hen
    · have := hreach en hen
      omega
    · rw [List.mem_singleton.1 hen]
      show (64 * (e / 64).toNat : Int) ≤ e
      omega
  · rw [htiles, List.length_map, List.length_append, freshTiles, List.length_map, List.length_range]
    omega

end Placing

/-- R27: the seed opens the first tiles of an empty ring. -/
theorem ringOk_takeSeed {i : Fin 3} {f : CapturedFrame} (hs : s.sweep.state = .armed) (hcoh : s.coherent)
    (hlegal : TablesAndParams s) (h : RingOk s) : RingOk (takeSeed i f s) := by
  obtain ⟨-, -, htiles⟩ := hcoh.2.2.2.1 (.inr (.inl hs))
  have he := hcoh.2.2.2.2 hs
  have hidle : s.sweep.state ≠ .idle := by simp [hs]
  obtain ⟨hlo, hhi⟩ := mapWidth_bounds hlegal.1.1 (hlegal.1.2 hidle)
  obtain ⟨-, ⟨hw, -⟩, -⟩ := hlegal.2 hidle
  refine ringOk_takeWidthLimit (ringOk_sweepClosed.decideOutcome _ (ringOk_placeFrame
    (s := { s with placement := { s.placement with e0 := f.record.exposure } }) _ _ _ _ _ _ _ ?_ ?_ ?_ h))
  · show s.placement.e < _
    rw [he]
    omega
  · show ∀ u ∈ s.ring.tiles, _
    simp [htiles]
  · show s.ring.tiles.length + (_ - s.placement.e / 64).toNat ≤ 32
    rw [htiles, he, List.length_nil]
    omega

theorem ringOk_takeFrame (hcoh : s.coherent) (hlegal : TablesAndParams s) (h : RingOk s) : RingOk (takeFrame s) := by
  unfold takeFrame
  split
  · exact h
  · split
    · exact h
    · split
      · exact ringOk_takeSeed ‹_› hcoh hlegal h
      · exact h

/-- R131: what the test for room finds. -/
theorem hasRoom_spec {band : Nat} {e : Int} (hr : hasRoom s.placement.e (firstWritten s.placement.e band) e s = true)
    (he : s.placement.e < e) (h : RingOk s) :
    (∀ u ∈ s.ring.tiles, firstWritten s.placement.e band / 64 ≤ u.index → u.state = .opened) ∧
      s.ring.tiles.length + (e / 64 - s.placement.e / 64).toNat ≤ 32 := by
  obtain ⟨⟨hlow, hsorted, hbelow, -⟩, -, hlen⟩ := h
  simp only [hasRoom, Bool.and_eq_true, List.all_eq_true, List.mem_range, Bool.or_eq_true, decide_eq_true_eq,
    List.any_eq_true] at hr
  obtain ⟨hopen, hfit⟩ := hr
  refine ⟨fun u hu hfirst => ?_, ?_⟩
  · have hu' := hbelow u hu
    rcases hopen (u.index - firstWritten s.placement.e band / 64).toNat (by omega) with hnew | ⟨v, hv, hvu, hvo⟩
    · omega
    · rwa [eq_of_index_eq hsorted hu hv (by omega)]
  · have : firstWritten s.placement.e band / 64 - 1 ≤ s.placement.e / 64 := by
      unfold firstWritten
      omega
    omega

theorem ringOk_placementEvent (h : RingOk s) : RingOk (placementEvent s) := by
  unfold placementEvent
  split
  · unfold placeHandover
    dsimp only
    split
    · exact ringOk_outcomeClosed.refuseFrame _ _ _ _ h
    · split
      · exact ringOk_outcomeClosed.refuseFrame _ _ _ _ h
      · split
        · rename_i hslow hroom
          obtain ⟨hopen, hfit⟩ := hasRoom_spec hroom (Int.not_le.1 hslow) h
          exact ringOk_testDrain (ringOk_examineTiles (ringOk_takeWidthLimit (ringOk_sweepClosed.decideOutcome _
            (ringOk_placeFrame (s := releaseEngine s) _ _ _ _ _ _ _ (Int.not_le.1 hslow) hopen hfit h))))
        · exact ringOk_outcomeClosed.refuseFrame _ _ _ _ h
  · exact h

/-! ### A composite completes (R140) -/

@[simp] theorem paintTile_index (x : PaintInputs) (u : Tile) : (paintTile x u).index = u.index := by
  unfold paintTile; split <;> rfl
@[simp] theorem paintTile_state (x : PaintInputs) (u : Tile) : (paintTile x u).state = u.state := by
  unfold paintTile; split <;> rfl
@[simp] theorem paintTile_writers (x : PaintInputs) (u : Tile) : (paintTile x u).writers = u.writers := by
  unfold paintTile; split <;> rfl

/-- R139: what the entry's frame, where it stands, makes of a tile. -/
def paintedBy (en : CompositeEntry) (s : State) (u : Tile) : Tile :=
  (s.capture.slots.get en.slot).elim u fun f => paintTile (paintInputs en f s) u

/-- R136, R139: what a completed composite makes of one tile: in its range painted and one writer less. -/
def writtenBy (en : CompositeEntry) (s : State) (u : Tile) : Tile :=
  if en.covers u then { paintedBy en s u with writers := (paintedBy en s u).writers - 1 } else u

theorem paintedBy_fields (en : CompositeEntry) (s : State) (u : Tile) : (paintedBy en s u).index = u.index ∧
    (paintedBy en s u).state = u.state ∧ (paintedBy en s u).writers = u.writers := by
  unfold paintedBy
  cases s.capture.slots.get en.slot with
  | none => exact ⟨rfl, rfl, rfl⟩
  | some f => exact ⟨paintTile_index _ u, paintTile_state _ u, paintTile_writers _ u⟩

@[simp] theorem writtenBy_index (en : CompositeEntry) (s : State) (u : Tile) : (writtenBy en s u).index = u.index := by
  unfold writtenBy
  split
  · exact (paintedBy_fields en s u).1
  · rfl

@[simp] theorem writtenBy_state (en : CompositeEntry) (s : State) (u : Tile) : (writtenBy en s u).state = u.state := by
  unfold writtenBy
  split
  · exact (paintedBy_fields en s u).2.1
  · rfl

theorem writtenBy_writers (en : CompositeEntry) (s : State) (u : Tile) :
    (writtenBy en s u).writers = u.writers - (en.covers u).toNat := by
  unfold writtenBy
  obtain ⟨-, -, hwriters⟩ := paintedBy_fields en s u
  cases hc : en.covers u
  · rfl
  · simp [hwriters]

theorem writtenBy_of_not_covers {en : CompositeEntry} {u : Tile} (h : en.covers u = false) (s : State) : writtenBy en s u = u := by
  simp [writtenBy, h]

theorem covers_iff (en : CompositeEntry) (u : Tile) : en.covers u = true ↔ en.firstTile ≤ u.index ∧ u.index ≤ en.lastTile := by
  simp [CompositeEntry.covers]

theorem paintEntry_tiles (en : CompositeEntry) (s : State) : (paintEntry en s).ring.tiles = s.ring.tiles.map (paintedBy en s) := by
  have hnone (h : s.capture.slots.get en.slot = none) : paintedBy en s = id := funext fun u => by simp [paintedBy, h]
  have hsome {f : CapturedFrame} (h : s.capture.slots.get en.slot = some f) : paintedBy en s = paintTile (paintInputs en f s) :=
    funext fun u => by simp [paintedBy, h]
  cases h : s.capture.slots.get en.slot with
  | none => simp [paintEntry, h, hnone h]
  | some f => simp [paintEntry, h, hsome h]

/-- Outside its range an entry paints nothing. -/
theorem paintedBy_of_not_covers {en : CompositeEntry} {u : Tile} (h : ¬en.covers u = true) (s : State) : paintedBy en s u = u := by
  have hout : ¬(en.firstTile ≤ u.index ∧ u.index ≤ en.lastTile) := fun e => h ((covers_iff en u).2 e)
  unfold paintedBy
  cases s.capture.slots.get en.slot with
  | none => rfl
  | some f => exact if_neg hout

/-- The tiles behind a completed composite, before they are examined. -/
theorem changeWriters_paintEntry_tiles (en : CompositeEntry) (s : State) :
    (changeWriters (· - 1) en.firstTile en.lastTile (paintEntry en s)).ring.tiles = s.ring.tiles.map (writtenBy en s) := by
  simp only [changeWriters, paintEntry_tiles, List.map_map]
  refine List.map_congr_left fun u _ => ?_
  simp only [Function.comp, (paintedBy_fields en s u).1, writtenBy]
  by_cases hc : en.covers u = true
  · rw [if_pos ((covers_iff en u).1 hc), if_pos hc]
  · rw [if_neg fun e => hc ((covers_iff en u).2 e), if_neg hc, paintedBy_of_not_covers hc]

theorem ringOk_completeComposite (h : RingOk s) : RingOk (completeComposite s) := by
  unfold completeComposite
  split
  · exact h
  · rename_i en rest hq
    refine ringOk_testDrain (ringOk_examineTiles ?_)
    obtain ⟨⟨hlow, hsorted, hbelow, hnodup, hqueue, hemit, hclosed⟩, ⟨hwriters, hreach⟩, hroom⟩ := h
    have htiles := changeWriters_paintEntry_tiles en s
    have hsame : (paintEntry en s).ring.sealedQueue = s.ring.sealedQueue ∧ (paintEntry en s).ring.run = s.ring.run ∧
        (paintEntry en s).placement = s.placement := by
      unfold paintEntry
      split <;> exact ⟨rfl, rfl, rfl⟩
    obtain ⟨hsq, hrun, hplace⟩ := hsame
    generalize hu : { freeSlot en.slot (changeWriters (· - 1) en.firstTile en.lastTile (paintEntry en s)) with
      comp := ⟨false, rest⟩ } = u
    have hut : u.ring.tiles = s.ring.tiles.map (writtenBy en s) := by rw [← hu]; exact htiles
    have huq : u.ring.sealedQueue = s.ring.sealedQueue := by rw [← hu]; exact hsq
    have hur : u.ring.run = s.ring.run := by rw [← hu]; exact hrun
    have hup : u.placement = s.placement := by rw [← hu]; exact hplace
    have huc : u.comp.queue = rest := by rw [← hu]
    refine ⟨⟨?_, ?_, ?_, ?_, fun n => ?_, ?_, ?_⟩, ⟨?_, ?_⟩, ?_⟩
    · rwa [hup]
    · rwa [hut, map_index_map fun v => writtenBy_index en s v]
    · rw [hut, hup]
      simpa using hbelow
    · rwa [huq]
    · rw [huq, hut]
      simpa using hqueue n
    · rw [hut, hur]
      simpa using hemit
    · rw [hut]
      intro w hw hstate
      obtain ⟨v, hv, rfl⟩ := List.mem_map.1 hw
      rw [writtenBy_state] at hstate
      rw [writtenBy_writers, hclosed v hv hstate, Nat.zero_sub]
    · rw [hut, huc]
      intro w hw
      obtain ⟨v, hv, rfl⟩ := List.mem_map.1 hw
      have hcount := hwriters v hv
      rw [hq, List.countP_cons] at hcount
      have hcovers (x : CompositeEntry) : x.covers (writtenBy en s v) = x.covers v := by simp [CompositeEntry.covers]
      simp only [writtenBy_writers, hcovers, hcount]
      cases en.covers v <;> simp
    · rw [huc, hup]
      exact fun x hx => hreach x (by rw [hq]; exact List.mem_cons_of_mem en hx)
    · rw [hut, List.length_map]
      exact hroom

/-! ### The obligation -/

theorem emptyRing_sealedQueue (s : State) : (emptyRing s).ring.sealedQueue = [] := by simp [emptyRing]

@[simp] theorem abortSweep_placement (s : State) : (abortSweep s).placement = s.placement := by
  simp only [abortSweep, changeSweep_placement, emptyRing_placement, emptyCompositor_placement, stopRegistration_placement]
  exact foldl_keeps abortSlot (·.placement) (fun u i => by unfold abortSlot; split <;> simp) _ s

theorem abortSweep_sweep (s : State) : (abortSweep s).sweep = { s.sweep with state := .ended, cause := .aborted } := by
  have hfold : (s.capture.order.foldl abortSlot s).sweep = s.sweep :=
    foldl_keeps abortSlot (·.sweep) (fun u i => by unfold abortSlot; split <;> simp) _ s
  simp [abortSweep, changeSweep, hfold]

theorem abortSweep_ring (s : State) : (abortSweep s).ring.tiles = [] ∧ (abortSweep s).ring.sealedQueue = [] := by
  simp [abortSweep, emptyRing_tiles, emptyRing_sealedQueue]

theorem ringOk_sweepSide (hc : c ≠ .registrationTake) : SweepSide c RingOk where
  damageFilling _ := ringOk_outcomeClosed.damageFilling
  captureOpenPacket body _ := ringOk_outcomeClosed.captureOpenPacket body
  captureLinePacket body _ := ringOk_outcomeClosed.captureLinePacket body
  captureShutPacket _ := ringOk_outcomeClosed.captureShutPacket
  completeTilePacket _ := ringOk_completeTilePacket
  takeRun s hcan h := by
    simp only [canTakeRun, Bool.and_eq_true, Option.isNone_iff_eq_none] at hcan
    exact ringOk_takeRun hcan.1.1 h
  endArmed _ := ringOk_outcomeClosed.endArmed
  endRunning _ := ringOk_outcomeClosed.endRunning
  abortSweep s _ h := ringOk_of_empty (abortSweep_ring s).1 (abortSweep_ring s).2 (by simp) (by simpa using h.1.1)
  takeFrame _ e := absurd e hc
  registrationEnd _ _ := ringOk_outcomeClosed.registrationEnd
  placementEvent _ _ _ := ringOk_placementEvent
  takeComposite _ _ h := h
  completeComposite _ _ _ := ringOk_completeComposite

theorem ringOk_cold (p : Power) (m : Mode) (b : Bool) (ts : Tables) (st : Store) (n : Nat) (q : List Instr) :
    RingOk (State.cold p m b ts st n q) := ringOk_of_empty rfl rfl rfl (Int.le_refl _)

/-- Every command but the three that begin a canvas keeps the ring in order by itself. -/
theorem ringOk_kept (htake : c ≠ .registrationTake) (harm : c ≠ .sweepArm) (hrel : c ≠ .sweepRelease) : Kept c RingOk where
  toSweepSide := ringOk_sweepSide htake
  parts s t part h := by
    cases part with
    | powerOn => exact ringOk_cold ..
    | powerLoss => exact ringOk_cold ..
    | arbitrate => exact ringOk_congr (s := s) (by simp) (by simp) (by simp) (by simp) (by simp) h
    | resetEngine =>
      refine ringOk_of_empty ?_ ?_ ?_ ?_ <;>
        simp [resetUnits, resetBlocks, emptyRing_tiles, emptyRing_sealedQueue, Placement.zero]
    | armSweep d ps hc => exact absurd hc harm
    | releaseSweep hc => exact absurd hc hrel
    | _ => exact h

theorem ringOk_arbitrate (h : RingOk s) : RingOk (arbitrate s) :=
  ringOk_congr (s := s) (by simp) (by simp) (by simp) (by simp) (by simp) h

/-- With nothing on the canvas E may return to -1. -/
theorem ringOk_canvasReset (ht : s.ring.tiles = []) (hc : s.comp.queue = []) (h : RingOk s)
    (htt : t.ring.tiles = s.ring.tiles) (htq : t.ring.sealedQueue = s.ring.sealedQueue) (htc : t.comp.queue = s.comp.queue)
    (he : t.placement.e = -1) : RingOk t :=
  ringOk_of_empty (htt.trans ht) (htq.trans (sealedQueue_nil_of_tiles_nil h.1 ht)) (htc.trans hc) (by rw [he])

theorem ringOk_sweepArm (body : List Byte) (hcoh : s.coherent) (h : RingOk s) : RingOk (doSweepArm body s) := by
  unfold doSweepArm withParams
  split
  · exact h
  · split
    · unfold checkArm
      split
      · exact h
      · rename_i hidle
        obtain ⟨-, hq, ht⟩ := hcoh.2.2.2.1 (.inl (not_not.1 hidle))
        split
        · exact h
        · split
          · exact h
          · exact ringOk_canvasReset ht hq h rfl rfl rfl rfl
    · exact h

theorem ringOk_sweepRelease (body : List Byte) (hcoh : s.coherent) (h : RingOk s) : RingOk (doSweepRelease body s) := by
  unfold doSweepRelease withParams
  split
  · exact h
  · split
    · dsimp only
      split
      · rename_i hended
        obtain ⟨-, hq, ht⟩ := hcoh.2.2.2.1 (.inr (.inr hended))
        exact ringOk_canvasReset ht hq h rfl rfl rfl rfl
      · exact h
    · exact h

theorem ringOk_exec (hcoh : s.coherent) (hlegal : TablesAndParams s) (h : RingOk s) (ht : exec c s = .next t) : RingOk t := by
  by_cases htake : c = .registrationTake
  · subst htake
    rcases event_cases (show execRegistrationTake s = .next t from ht) with ⟨-, -, rfl⟩ | rfl
    · exact ringOk_arbitrate (ringOk_takeFrame hcoh hlegal h)
    · exact h
  · by_cases harm : c = .sweepArm
    · subst harm
      rcases takeDirective_cases (show takeDirective _ doSweepArm s = .next t from ht) with ⟨-, -, rfl⟩ | rfl
      · exact ringOk_arbitrate (ringOk_sweepArm (s := popDirective s) _ hcoh h)
      · exact h
    · by_cases hrel : c = .sweepRelease
      · subst hrel
        rcases takeDirective_cases (show takeDirective _ doSweepRelease s = .next t from ht) with ⟨-, -, rfl⟩ | rfl
        · exact ringOk_arbitrate (ringOk_sweepRelease (s := popDirective s) _ hcoh h)
        · exact h
      · exact (ringOk_kept htake harm hrel).exec ht h

/-- Settles O52: `RingOk` through every command. -/
theorem everyStepKeepsTheRingAndItsWriterCounts : Obligations.EveryStepKeepsTheRingAndItsWriterCounts := by
  intro s t hcoh htables hparams h ht
  rcases step_cases ht with rfl | ⟨c, rest, -, he⟩
  · exact h
  · exact ringOk_exec (s := { s with pending := rest }) hcoh ⟨htables, hparams⟩ h he

end Sys2Proof.Proofs
end

section
/-! PROOF. O53 (R148) and O54 (R124): a tile that is SEALED or EMITTING is never written, and E never falls within a sweep. -/

namespace Sys2Proof.Proofs

open Sys2Proof.Machine

variable {s t : State} {c : Instr} {l m : List Tile}

/-! ### Tiles that are no longer written (R148) -/

/-- `b` holds what `a` holds, and is OPEN only where `a` is. -/
def SameContent (a b : Tile) : Prop :=
  b.luma = a.luma ∧ b.chroma = a.chroma ∧ b.coverage = a.coverage ∧ (b.state = .opened → a.state = .opened)

/-- Each tile of `m` holds what the tile of its index in `l` holds, unless that one is OPEN. -/
def TilesKept (l m : List Tile) : Prop :=
  ∀ u ∈ l, ∀ v ∈ m, u.state ≠ .opened → v.index = u.index →
    v.luma = u.luma ∧ v.chroma = u.chroma ∧ v.coverage = u.coverage ∧ v.state ≠ .opened

/-- Tiles that are kept may change, but for their content. -/
theorem TilesKept.trans {m' : List Tile} (h : TilesKept l m)
    (hm : ∀ b ∈ m', ∃ a ∈ m, b.index = a.index ∧ SameContent a b) : TilesKept l m' := by
  intro u hu v hv hstate hindex
  obtain ⟨a, ha, hva, hluma, hchroma, hcov, hopen⟩ := hm v hv
  obtain ⟨h1, h2, h3, h4⟩ := h u hu a ha hstate (hva.symm.trans hindex)
  exact ⟨hluma.trans h1, hchroma.trans h2, hcov.trans h3, fun e => h4 (hopen e)⟩

theorem SameContent.refl (a : Tile) : SameContent a a := ⟨rfl, rfl, rfl, id⟩

theorem tilesKept_examineTiles (h : TilesKept l s.ring.tiles) : TilesKept l (examineTiles s).ring.tiles := by
  rw [examineTiles, (foldl_sealTile_spec _ s).2]
  refine h.trans fun b hb => ?_
  obtain ⟨a, ha, rfl⟩ := List.mem_map.1 hb
  refine ⟨a, ha, ?_⟩
  split
  · exact ⟨rfl, rfl, rfl, rfl, nofun⟩
  · exact ⟨rfl, .refl a⟩

theorem tilesKept_takeRun (h : TilesKept l s.ring.tiles) : TilesKept l (takeRun s).ring.tiles := by
  cases hq : s.ring.sealedQueue with
  | nil => rw [takeRun, hq]; exact h
  | cons n rest =>
    have htiles : (takeRun s).ring.tiles =
        s.ring.tiles.map fun u => if u.index = n then { u with state := .emitting } else u := by
      rw [takeRun, hq]
      dsimp only
      split <;> simp
    rw [htiles]
    refine h.trans fun b hb => ?_
    obtain ⟨a, ha, rfl⟩ := List.mem_map.1 hb
    refine ⟨a, ha, ?_⟩
    split
    · exact ⟨rfl, rfl, rfl, rfl, nofun⟩
    · exact ⟨rfl, .refl a⟩

theorem tilesKept_nil (h : t.ring.tiles = []) : TilesKept l t.ring.tiles := by
  rw [h]
  exact fun _ _ _ hv => absurd hv List.not_mem_nil

theorem tilesKept_sweepClosed : SweepClosed fun s => TilesKept l s.ring.tiles := by
  intro s t part h
  cases part with
  | examineTiles => exact tilesKept_examineTiles h
  | _ => exact h

theorem tilesKept_captureClosed : CaptureClosed fun s => TilesKept l s.ring.tiles := by
  intro s t part h
  cases part <;> exact h

theorem tilesKept_outcomeClosed : OutcomeClosed fun s => TilesKept l s.ring.tiles :=
  tilesKept_sweepClosed.outcomeClosed tilesKept_captureClosed

theorem tilesKept_completeTilePacket (h : TilesKept l s.ring.tiles) : TilesKept l (completeTilePacket s).ring.tiles := by
  unfold completeTilePacket completeTileEnd
  split
  · exact h
  · split
    · refine tilesKept_outcomeClosed.testDrain _ (h.trans fun b hb => ?_)
      exact ⟨b, (List.mem_filter.1 hb).1, rfl, .refl b⟩
    · exact h

/-- Every command but the three that write or open tiles leaves the tiles' content. -/
theorem tilesKept_kept (htake : c ≠ .registrationTake) (hplace : c ≠ .placement) (hcomp : c ≠ .compositeComplete) :
    Kept c fun s => TilesKept l s.ring.tiles where
  damageFilling _ := tilesKept_outcomeClosed.damageFilling
  captureOpenPacket body _ := tilesKept_outcomeClosed.captureOpenPacket body
  captureLinePacket body _ := tilesKept_outcomeClosed.captureLinePacket body
  captureShutPacket _ := tilesKept_outcomeClosed.captureShutPacket
  completeTilePacket _ := tilesKept_completeTilePacket
  takeRun _ _ := tilesKept_takeRun
  endArmed _ := tilesKept_outcomeClosed.endArmed
  endRunning _ := tilesKept_outcomeClosed.endRunning
  abortSweep s _ _ := tilesKept_nil (abortSweep_ring s).1
  takeFrame _ e := absurd e htake
  registrationEnd _ _ := tilesKept_outcomeClosed.registrationEnd
  placementEvent _ e := absurd e hplace
  takeComposite _ _ h := h
  completeComposite _ e := absurd e hcomp
  parts s t part h := by
    cases part with
    | powerOn => exact tilesKept_nil rfl
    | powerLoss => exact tilesKept_nil rfl
    | arbitrate => rwa [arbitrate_ring]
    | resetEngine => exact tilesKept_nil (by simp [resetUnits, resetBlocks, emptyRing_tiles])
    | _ => exact h

theorem tilesKept_self (h : s.ringAgrees) : TilesKept s.ring.tiles s.ring.tiles := by
  obtain ⟨-, hsorted, -⟩ := h
  intro u hu v hv hstate hindex
  rw [eq_of_index_eq hsorted hv hu hindex]
  exact ⟨rfl, rfl, rfl, hstate⟩

/-! ### The commands that open and write tiles -/

/-- R135, R136: opening tiles above floor(E/64) and raising writer counts writes nothing into the resident ones. -/
theorem tilesKept_placeFrame (i : Fin 3) (f : CapturedFrame) (o d : Point) (band : Nat) (e g : Int) (h : s.ringAgrees) :
    TilesKept s.ring.tiles (placeFrame i f o d band e g s).ring.tiles := by
  have hself := tilesKept_self h
  obtain ⟨hlow, -, hbelow, -⟩ := h
  rw [placeFrame_tiles]
  intro u hu v hv hstate hindex
  obtain ⟨w, hw, rfl⟩ := List.mem_map.1 hv
  rcases List.mem_append.1 hw with hw | hw
  · have hkept := hself u hu w hw hstate (by simpa using hindex)
    unfold raisedIn
    split <;> exact hkept
  · obtain ⟨n, rfl, hn, -⟩ := mem_freshTiles (by omega) hw
    have hu' := hbelow u hu
    have hnu : n = u.index := by simpa [freshTile] using hindex
    omega

theorem tilesKept_placementEvent (h : s.ringAgrees) : TilesKept s.ring.tiles (placementEvent s).ring.tiles := by
  have hself := tilesKept_self h
  have refused (o : FrameOutcome) (i : Fin 3) (f : CapturedFrame) (x : Handover) :=
    tilesKept_outcomeClosed.refuseFrame (s := s) o i f x hself
  unfold placementEvent
  split
  · unfold placeHandover
    dsimp only
    split
    · exact refused _ _ _ _
    · split
      · exact refused _ _ _ _
      · split
        · exact tilesKept_outcomeClosed.testDrain _ (tilesKept_examineTiles (tilesKept_outcomeClosed.takeWidthLimit
            (tilesKept_outcomeClosed.decideOutcome _ _ (tilesKept_placeFrame (s := releaseEngine s) _ _ _ _ _ _ _ h))))
        · exact refused _ _ _ _
  · exact hself

/-- R27: in ARMED no tile is resident; a frame taken to be registered changes no tile. -/
theorem tilesKept_takeFrame (hcoh : s.coherent) (h : s.ringAgrees) : TilesKept s.ring.tiles (takeFrame s).ring.tiles := by
  unfold takeFrame
  split
  · exact tilesKept_self h
  · split
    · exact tilesKept_self h
    · split
      · obtain ⟨-, -, htiles⟩ := hcoh.2.2.2.1 (.inr (.inl ‹_›))
        rw [htiles]
        exact fun u hu => absurd hu List.not_mem_nil
      · exact tilesKept_self h

/-- R136, R148: a tile that is not OPEN has no writers, so no entry of the composite queue covers it. -/
theorem tilesKept_completeComposite (h : s.ringAgrees) (hw : s.writersAgree) :
    TilesKept s.ring.tiles (completeComposite s).ring.tiles := by
  unfold completeComposite
  split
  · exact tilesKept_self h
  · rename_i en rest hq
    refine tilesKept_outcomeClosed.testDrain _ (tilesKept_examineTiles ?_)
    show TilesKept s.ring.tiles (changeWriters (· - 1) en.firstTile en.lastTile (paintEntry en s)).ring.tiles
    rw [changeWriters_paintEntry_tiles]
    have hself := tilesKept_self h
    obtain ⟨-, hsorted, -, -, -, -, hclosed⟩ := h
    intro u hu v hv hstate hindex
    obtain ⟨w, hwm, rfl⟩ := List.mem_map.1 hv
    have hwu : w = u := eq_of_index_eq hsorted hwm hu (by simpa using hindex)
    subst hwu
    have hcount := hw.1 w hwm
    rw [hclosed w hwm hstate, hq, List.countP_cons] at hcount
    have hout : en.covers w = false := by
      by_contra hcov
      simp [Bool.not_eq_false _ ▸ hcov] at hcount
    rw [writtenBy_of_not_covers hout]
    exact ⟨rfl, rfl, rfl, hstate⟩

theorem tilesKept_exec (hcoh : s.coherent) (h : s.ringAgrees) (hw : s.writersAgree) (ht : exec c s = .next t) :
    TilesKept s.ring.tiles t.ring.tiles := by
  by_cases htake : c = .registrationTake
  · subst htake
    rcases event_cases (show execRegistrationTake s = .next t from ht) with ⟨-, -, rfl⟩ | rfl
    · rw [arbitrate_ring]; exact tilesKept_takeFrame hcoh h
    · exact tilesKept_self h
  · by_cases hplace : c = .placement
    · subst hplace
      rcases event_cases (show execPlacement s = .next t from ht) with ⟨-, -, rfl⟩ | rfl
      · rw [arbitrate_ring]; exact tilesKept_placementEvent h
      · exact tilesKept_self h
    · by_cases hcomp : c = .compositeComplete
      · subst hcomp
        rcases event_cases (show execCompositeComplete s = .next t from ht) with ⟨-, -, rfl⟩ | rfl
        · rw [arbitrate_ring]; exact tilesKept_completeComposite h hw
        · exact tilesKept_self h
      · exact (tilesKept_kept htake hplace hcomp).exec ht (tilesKept_self h)

/-- Settles O53: `TilesKept` through every command, from the tiles the step finds. -/
theorem sealedTileIsNeverWritten : Obligations.SealedTileIsNeverWritten := by
  intro s t hcoh _ _ hring hwriters ht
  rcases step_cases ht with rfl | ⟨c, rest, -, he⟩
  · exact tilesKept_self hring
  · exact tilesKept_exec (s := { s with pending := rest }) hcoh hring hwriters he

/-! ### The high-water mark (R124) -/

/-- E stands at `e` or above, and above it only up to Wmax - 1. -/
def EdgeFrom (e : Int) (s : State) : Prop :=
  e ≤ s.placement.e ∧ (s.placement.e ≠ e → s.placement.e ≤ (s.sweep.params.wmax : Int) - 1)

variable {e : Int}

theorem edgeFrom_self (s : State) : EdgeFrom s.placement.e s := ⟨Int.le_refl _, fun h => absurd rfl h⟩

theorem edgeFrom_congr (he : t.placement.e = s.placement.e) (hp : t.sweep.params = s.sweep.params) (h : EdgeFrom e s) :
    EdgeFrom e t := by
  unfold EdgeFrom
  rwa [he, hp]

theorem edgeFrom_sweepClosed : SweepClosed (EdgeFrom e) := by
  intro s t part h
  cases part with
  | recordOutcome r => exact edgeFrom_congr (s := s) rfl (by simp [recordOutcome]) h
  | examineTiles => exact edgeFrom_congr (s := s) (by simp) (by simp) h
  | _ => exact h

theorem edgeFrom_captureClosed : CaptureClosed (EdgeFrom e) := by
  intro s t part h
  cases part <;> exact h

theorem edgeFrom_outcomeClosed : OutcomeClosed (EdgeFrom e) := edgeFrom_sweepClosed.outcomeClosed edgeFrom_captureClosed

/-- A frame placed with a new edge between E and Wmax - 1. -/
theorem edgeFrom_placed {i : Fin 3} {f : CapturedFrame} {o d : Point} {band : Nat} {eNew g : Int} (hlo : s.placement.e ≤ eNew)
    (hhi : eNew ≤ (s.sweep.params.wmax : Int) - 1) (h : EdgeFrom e s) : EdgeFrom e (placeFrame i f o d band eNew g s) :=
  ⟨h.1.trans hlo, fun _ => hhi⟩

theorem edgeFrom_placementEvent (h : EdgeFrom e s) : EdgeFrom e (placementEvent s) := by
  unfold placementEvent
  split
  · unfold placeHandover
    dsimp only
    split
    · exact edgeFrom_outcomeClosed.refuseFrame _ _ _ _ h
    · split
      · exact edgeFrom_outcomeClosed.refuseFrame _ _ _ _ h
      · rename_i hslow
        split
        · exact edgeFrom_outcomeClosed.testDrain _ (edgeFrom_outcomeClosed.examineTiles _
            (edgeFrom_outcomeClosed.takeWidthLimit (edgeFrom_outcomeClosed.decideOutcome _ _
              (edgeFrom_placed (s := releaseEngine s) (Int.le_of_lt (Int.not_le.1 hslow)) (Int.min_le_right _ _) h))))
        · exact edgeFrom_outcomeClosed.refuseFrame _ _ _ _ h
  · exact h

theorem edgeFrom_completeTilePacket (h : EdgeFrom e s) : EdgeFrom e (completeTilePacket s) := by
  unfold completeTilePacket completeTileEnd
  split
  · exact h
  · split
    · exact edgeFrom_outcomeClosed.testDrain _ h
    · exact h

theorem edgeFrom_completeComposite (h : EdgeFrom e s) : EdgeFrom e (completeComposite s) := by
  have hpaint (en : CompositeEntry) : EdgeFrom e (paintEntry en s) := by
    unfold paintEntry
    split <;> exact h
  unfold completeComposite
  split
  · exact h
  · exact edgeFrom_outcomeClosed.testDrain _ (edgeFrom_outcomeClosed.examineTiles _ (hpaint _))

/-- R27: in ARMED E is -1, and the seed raises it. -/
theorem edgeFrom_takeFrame (hcoh : s.coherent) : EdgeFrom s.placement.e (takeFrame s) := by
  have hself := edgeFrom_self s
  unfold takeFrame
  split
  · exact hself
  · split
    · exact hself
    · split
      · have he := hcoh.2.2.2.2 ‹_›
        refine edgeFrom_outcomeClosed.takeWidthLimit (edgeFrom_outcomeClosed.decideOutcome _ _ (edgeFrom_placed ?_
          (Int.min_le_right _ _) hself))
        show s.placement.e ≤ _
        rw [he]
        omega
      · exact hself

theorem edgeFrom_kept (htake : c ≠ .registrationTake) (hrelease : ∀ high, c ≠ .resetRelease high) (hloss : c ≠ .powerLoss)
    (hreset : c ≠ .resetEngine) (harm : c ≠ .sweepArm) (hrel : c ≠ .sweepRelease) : Kept c (EdgeFrom e) where
  damageFilling _ := edgeFrom_outcomeClosed.damageFilling
  captureOpenPacket body _ := edgeFrom_outcomeClosed.captureOpenPacket body
  captureLinePacket body _ := edgeFrom_outcomeClosed.captureLinePacket body
  captureShutPacket _ := edgeFrom_outcomeClosed.captureShutPacket
  completeTilePacket _ := edgeFrom_completeTilePacket
  takeRun s _ h := edgeFrom_congr (s := s) (by simp) (by simp) h
  endArmed _ := edgeFrom_outcomeClosed.endArmed
  endRunning _ := edgeFrom_outcomeClosed.endRunning
  abortSweep s _ h := edgeFrom_congr (s := s) (by simp) (by simp [abortSweep_sweep]) h
  takeFrame _ e := absurd e htake
  registrationEnd _ _ := edgeFrom_outcomeClosed.registrationEnd
  placementEvent _ _ _ := edgeFrom_placementEvent
  takeComposite _ _ h := h
  completeComposite _ _ _ := edgeFrom_completeComposite
  parts s t part h := by
    cases part with
    | powerOn high hc => exact absurd hc (hrelease high)
    | powerLoss hc => exact absurd hc hloss
    | arbitrate => exact edgeFrom_congr (s := s) (by simp) (by simp) h
    | resetEngine hc => exact absurd hc hreset
    | armSweep d ps hc => exact absurd hc harm
    | releaseSweep hc => exact absurd hc hrel
    | _ => exact h

/-- Settles O54: `EdgeFrom` through every command that does not begin a canvas. -/
theorem highWaterMarkNeverFallsWithinASweep : Obligations.HighWaterMarkNeverFallsWithinASweep := by
  intro c s t hcoh ht hrelease hloss hreset harm hrel
  by_cases htake : c = .registrationTake
  · subst htake
    rcases event_cases (show execRegistrationTake s = .next t from ht) with ⟨-, -, rfl⟩ | rfl
    · exact edgeFrom_congr (s := takeFrame s) (by simp) (by simp) (edgeFrom_takeFrame hcoh)
    · exact edgeFrom_self _
  · exact (edgeFrom_kept htake hrelease hloss hreset harm hrel).exec ht (edgeFrom_self s)

end Sys2Proof.Proofs
end

section
/-! PROOF. O1, O2, O3 and O55 (R2, R3): a step, the queue behind it, the RESET line, and the state right after reset. -/

namespace Sys2Proof.Proofs

open Sys2Proof.Machine

variable {s t : State} {c : Instr}

/-- Settles O1: the two cases of `step`. -/
theorem stepTakesTheFrontCommand : Obligations.StepTakesTheFrontCommand := by
  refine fun s => ⟨fun c rest h => ?_, fun h => ?_⟩ <;> rw [step, h]

/-! ### Every command reaches a next state, and leaves the queue behind it -/

theorem event_reaches (enabled : State → Bool) (effect : State → State) (s : State) : ∃ t, event enabled effect s = .next t := by
  unfold event
  split <;> exact ⟨_, rfl⟩

theorem exec_reaches (c : Instr) (s : State) : ∃ t, exec c s = .next t := by
  by_cases hrun : c = .tileRunTake
  · subst hrun
    show ∃ t, execTileRunTake s = .next t
    unfold execTileRunTake
    split
    · exact ⟨_, rfl⟩
    · exact event_reaches ..
  · cases hline : lineEvent c with
    | true => cases c <;> cases hline <;> exact ⟨_, rfl⟩
    | false =>
      obtain ⟨enabled, effect, he⟩ := exec_event c hline hrun
      rw [he]
      exact event_reaches ..

theorem pending_sweepClosed {q : List Instr} : SweepClosed fun s => s.pending = q := by
  intro s t part h
  cases part with
  | examineTiles => rwa [examineTiles_pending]
  | _ => exact h

theorem pending_captureClosed {q : List Instr} : CaptureClosed fun s => s.pending = q := by
  intro s t part h
  cases part <;> exact h

theorem pending_canvasClosed {q : List Instr} : CanvasClosed fun s => s.pending = q := by
  intro s t part h
  cases part with
  | takeRun => rwa [takeRun_pending]
  | emptyRing => rwa [emptyRing_pending]
  | _ => exact h

theorem pending_kept {q : List Instr} (c : Instr) : Kept c fun s => s.pending = q where
  toSweepSide := (pending_sweepClosed.partsClosed pending_captureClosed pending_canvasClosed).sweepSide
  parts s t part h := by
    cases part with
    | arbitrate => rwa [arbitrate_pending]
    | resetEngine => simpa [resetUnits, resetBlocks] using h
    | _ => exact h

theorem exec_of_not_running (hp : s.power ≠ .running) (hc : lineEvent c = false) : exec c s = .next s := by
  by_cases hrun : c = .tileRunTake
  · subst hrun
    obtain ⟨t, ht⟩ := exec_reaches .tileRunTake s
    rcases execTileRunTake_cases (show execTileRunTake s = .next t from ht) with rfl | ⟨hpower, -⟩
    · exact ht
    · exact absurd hpower hp
  · obtain ⟨enabled, effect, he⟩ := exec_event c hc hrun
    rw [he]
    exact event_disabled fun h => absurd h hp

/-- Settles O2: `exec_reaches`, and the queue through every part of a command. -/
theorem everyCommandReachesANextState : Obligations.EveryCommandReachesANextState := by
  refine fun c s => ⟨?_, exec_of_not_running⟩
  obtain ⟨t, ht⟩ := exec_reaches c s
  exact ⟨t, ht, (pending_kept (q := s.pending) c).exec ht rfl⟩

/-! ### The RESET line (R2, R3) -/

theorem mode_sweepClosed {m : Mode} : SweepClosed fun s => s.mode = m := by
  intro s t part h
  cases part with
  | examineTiles => rwa [examineTiles_mode]
  | _ => exact h

theorem mode_captureClosed {m : Mode} : CaptureClosed fun s => s.mode = m := by
  intro s t part h
  cases part <;> exact h

theorem mode_canvasClosed {m : Mode} : CanvasClosed fun s => s.mode = m := by
  intro s t part h
  cases part with
  | takeRun => rwa [takeRun_eq]
  | emptyRing => rwa [emptyRing_mode]
  | _ => exact h

theorem mode_kept {m : Mode} (hc : ∀ high, c ≠ .resetRelease high) : Kept c fun s => s.mode = m where
  toSweepSide := (mode_sweepClosed.partsClosed mode_captureClosed mode_canvasClosed).sweepSide
  parts s t part h := by
    cases part with
    | powerOn high e => exact absurd e (hc high)
    | arbitrate => rwa [arbitrate_mode]
    | resetEngine => simpa [resetUnits, resetBlocks] using h
    | _ => exact h

theorem powerOnTables_assembly (st : Store) : (powerOnTables st).assembly = none := by
  unfold powerOnTables
  split
  · rfl
  · split
    · split <;> rfl
    · rfl

/-- Settles O3: `powerOn` block by block, and the mode through every part of the other commands. -/
theorem resetLineStopsThePartAndReleaseRestartsIt : Obligations.ResetLineStopsThePartAndReleaseRestartsIt := by
  refine ⟨fun s => rfl, fun s high => ⟨_, rfl, rfl, rfl, rfl, rfl, rfl, rfl, rfl, rfl, rfl, rfl, rfl, rfl, rfl, rfl, fun k => ?_,
    fun k => ?_, rfl, ?_, rfl, cutOperation_marker s⟩, fun c s t ht hc => (mode_kept hc).exec ht rfl⟩
  · exact PerKind.get_const false k
  · exact PerKind.get_const none k
  · exact powerOnTables_assembly _

/-- Settles O55: each invariant of an empty part, the store as delivered. -/
theorem resetStateMeetsEveryInvariant : Obligations.ResetStateMeetsEveryInvariant := by
  have hring := ringOk_cold .running .normal false .empty .delivered 0 []
  exact ⟨rfl, settled_noteUnit_zero, ⟨rfl, fun _ => rfl⟩, ⟨Nat.zero_le _, Nat.zero_le _, Nat.zero_le _⟩, Nat.zero_le _,
    countersSound_zero, delivered_sound, ⟨tablesSound_empty, nofun⟩, nofun, coastAgrees_idle rfl (Nat.le_refl _), coherent_cold ..,
    hring.1, hring.2.1, fun _ _ _ => ⟨rfl, rfl, .inl rfl⟩, Nat.zero_le _⟩

end Sys2Proof.Proofs
end

section
/-! PROOF. O24 (R167), O37 (R187) and O35 (R193): the checks of a take, and the profile directives that complete in it. -/

namespace Sys2Proof.Proofs

open Sys2Proof.Machine

variable {s : State} {body : List Byte} {rest : List (List Byte)}

/-- R167: every directive of the summary is taken by its code and checked for its count. -/
theorem exec_fixedDirective : ∀ d ∈ fixedDirectives, ∃ effect : List Byte → State → State,
    (∀ s, exec d.1 s = takeDirective (· == d.2.1) effect s) ∧
      ∃ act : List Byte → List Nat → State → State, ∀ b s, effect b s = withParams d.2.2 b (act b) s := by
  unfold fixedDirectives
  simp only [List.forall_mem_cons, List.not_mem_nil, false_implies, implies_true, and_true]
  refine ⟨?_, ?_, ?_, ?_, ?_, ?_, ?_, ?_, ?_, ?_, ?_, ?_, ?_, ?_, ?_, ?_, ?_, ?_⟩ <;>
    exact ⟨_, fun _ => rfl, _, fun _ _ => rfl⟩

theorem canTake_eq_false (h : s.dirs.replyWaiting = true ∨ s.dirs.queue = []) (is : Byte → Bool) : canTake is s = false := by
  rcases h with h | h <;> simp [canTake, h]

/-- Settles O24: the two checks of a take, and a unit with nothing to take. -/
theorem unknownCodesAndWrongCountsAreRefused : Obligations.UnknownCodesAndWrongCountsAreRefused := by
  refine ⟨fun s body rest h => ⟨fun hc => ?_, fun d hd hc hn => ?_, fun hc hn => ?_⟩, fun s h => ⟨?_, ?_, fun d hd => ?_⟩⟩
  · exact takeDirective_of_offers h (by simp [hc])
  · obtain ⟨effect, hexec, act, hact⟩ := exec_fixedDirective d hd
    rw [hexec, takeDirective_of_offers h (by simp [hc]), hact, withParams_format hn]
  · refine (takeDirective_of_offers (is := (· == 0x20)) h (by rw [hc]; rfl)).trans ?_
    have hpage : doTablePage body (s.taken rest) = replyTo body .format [] (s.taken rest) := by
      unfold doTablePage
      split
      · rfl
      · rename_i ps hp
        unfold checkPage
        rw [if_pos (hn ps hp)]
    rw [hpage]
  · exact takeDirective_not (canTake_eq_false h _)
  · exact takeDirective_not (canTake_eq_false h _)
  · obtain ⟨effect, hexec, -⟩ := exec_fixedDirective d hd
    rw [hexec]
    exact takeDirective_not (canTake_eq_false h _)

/-! ### The profile directives' checks (R187) -/

section Checks

variable {n : Nat} {service unprotected : Bool} {act : List Nat → State → State} {ps : List Nat}
  (hp : dirParams body = some ps) (hn : ps.length = n)

include hp hn

theorem profileChecks_of_mode (h : service = true ∧ s.mode = .normal) :
    profileChecks n service unprotected body act s = replyTo body .notPermitted [] s := by
  simp [profileChecks, withParams_some hp hn, h]

theorem profileChecks_of_busy (hm : ¬(service = true ∧ s.mode = .normal)) (hb : s.store.busy ≠ none) :
    profileChecks n service unprotected body act s = replyTo body .busy [] s := by
  simp [profileChecks, withParams_some hp hn, hm, Option.isSome_iff_ne_none, hb]

theorem profileChecks_of_protected (hm : ¬(service = true ∧ s.mode = .normal)) (hb : s.store.busy = none)
    (hu : unprotected = true ∧ s.store.isProtected = true) :
    profileChecks n service unprotected body act s = replyTo body .isProtected [] s := by
  simp [profileChecks, withParams_some hp hn, hm, hb, hu]

theorem profileChecks_of_open (hm : ¬(service = true ∧ s.mode = .normal)) (hb : s.store.busy = none)
    (hu : ¬(unprotected = true ∧ s.store.isProtected = true)) :
    profileChecks n service unprotected body act s = act ps s := by
  simp [profileChecks, withParams_some hp hn, hm, hb, hu]

end Checks

theorem withSlot_of_range {ps : List Nat} (h : 4 ≤ ps.getD 0 0) (act : Fin 4 → State → State) (s : State) :
    withSlot body ps act s = replyTo body .range [] s := dif_neg (Nat.not_lt.2 h)

theorem setDefault_of_range {n : Nat} (h : 5 ≤ n) (s : State) : setDefault body n s = replyTo body .range [] s := by
  rw [setDefault, dif_neg (by omega), if_neg (by omega)]

/-- R187: every profile directive goes through the checks with its own count and needs, and refuses a slot beyond its values. -/
theorem exec_profileDirective : ∀ d ∈ profileDirectives,
    ∃ (effect : List Byte → State → State) (act : List Byte → List Nat → State → State),
    (∀ s, exec d.1 s = takeDirective (· == d.2.1) effect s) ∧
      (∀ b s, effect b s = profileChecks d.2.2.1 d.2.2.2.1 d.2.2.2.2.1 b (act b) s) ∧
      (d.2.2.2.2.2 ≠ 0 → ∀ b ps s, d.2.2.2.2.2 ≤ ps.getD 0 0 → act b ps s = replyTo b .range [] s) := by
  unfold profileDirectives
  simp only [List.forall_mem_cons, List.not_mem_nil, false_implies, implies_true, and_true]
  refine ⟨?_, ?_, ?_, ?_, ?_, ?_, ?_, ?_, ?_⟩
  · exact ⟨_, _, fun _ => rfl, fun _ _ => rfl, fun _ _ _ s h => withSlot_of_range h _ s⟩
  · exact ⟨_, _, fun _ => rfl, fun _ _ => rfl, fun _ _ _ s h => withSlot_of_range h _ s⟩
  · exact ⟨_, _, fun _ => rfl, fun _ _ => rfl, fun _ _ _ s h => withSlot_of_range h _ s⟩
  · exact ⟨_, _, fun _ => rfl, fun _ _ => rfl, fun _ _ _ s h => withSlot_of_range h _ s⟩
  · exact ⟨_, _, fun _ => rfl, fun _ _ => rfl, fun _ _ _ s h => withSlot_of_range h _ s⟩
  · exact ⟨_, _, fun _ => rfl, fun _ _ => rfl, fun h => absurd rfl h⟩
  · exact ⟨_, _, fun _ => rfl, fun _ _ => rfl, fun h => absurd rfl h⟩
  · exact ⟨_, _, fun _ => rfl, fun _ _ => rfl, fun _ _ _ s h => setDefault_of_range h s⟩
  · exact ⟨_, _, fun _ => rfl, fun _ _ => rfl, fun h => absurd rfl h⟩

/-- Settles O37: the checks in order, of each directive of `exec_profileDirective`. -/
theorem profileDirectivesAreCheckedInOrder : Obligations.ProfileDirectivesAreCheckedInOrder := by
  intro s body rest h d hd hc
  obtain ⟨effect, act, hexec, heffect, hrange⟩ := exec_profileDirective d hd
  intro refused
  have htake (r : ResultCode) (hr : profileChecks d.2.2.1 d.2.2.2.1 d.2.2.2.2.1 body (act body) (s.taken rest) =
      replyTo body r [] (s.taken rest)) : refused r := by
    show exec d.1 s = _
    rw [hexec, takeDirective_of_offers h (by simp [hc]), heffect, hr]
  refine ⟨fun hn => htake _ (withParams_format hn), fun ps hp hn => ?_⟩
  dsimp only
  refine ⟨fun hm => ?_, fun hm hb => ?_, fun hm hb hu => ?_, fun hm hb hu h0 hv => ?_⟩
  · exact htake _ (profileChecks_of_mode (s := s.taken rest) hp hn hm)
  · exact htake _ (profileChecks_of_busy (s := s.taken rest) hp hn hm hb)
  · exact htake _ (profileChecks_of_protected (s := s.taken rest) hp hn hm hb hu)
  · exact htake _ ((profileChecks_of_open (s := s.taken rest) hp hn hm hb hu).trans (hrange h0 _ _ _ hv))

/-! ### The directives that complete in their take (R193) -/

theorem setDefault_slot (i : Fin 4) (s : State) : setDefault body i.val s =
    replyTo body .done [natWord i.val] { s with store := { s.store with defaultSlot := some i } } := dif_pos i.isLt

theorem setDefault_none (s : State) : setDefault body 4 s =
    replyTo body .done [natWord 4] { s with store := { s.store with defaultSlot := none } } := rfl

/-- The take of PROFILE_DEFAULT that passes the checks. -/
theorem exec_profileDefault {n : Nat} (h : s.offers body rest) (hc : dirCode body = 0x37) (hp : dirParams body = some [n])
    (hm : s.mode = .service) (hb : s.store.busy = none) (hu : s.store.isProtected = false) :
    exec .profileDefault s = .next (arbitrate (setDefault body n (s.taken rest))) := by
  refine (takeDirective_of_offers (is := (· == 0x37)) h (by rw [hc]; rfl)).trans ?_
  show Host.Outcome.next (arbitrate (profileChecks 1 true true body _ (s.taken rest))) = _
  rw [profileChecks_of_passed (n := 1) (s := s.taken rest) hp rfl (fun _ => hm) hb fun _ => hu]
  rfl

/-- Settles O35: the checks passed or the protection met, each directive's own effect. -/
theorem protectDefaultAndInfoCompleteAtOnce : Obligations.ProtectDefaultAndInfoCompleteAtOnce := by
  refine fun s body rest h hb => ⟨fun hc hp hm hu => ?_, fun hc hp hm hu => ?_, fun hc hm hu => ⟨fun i hp => ?_, fun hp => ?_⟩,
    fun hc hp => ?_⟩
  · exact takeProfile_of_passed (is := (· == 0x35)) (service := true) (unprotected := true)
      (act := fun b s => replyTo b .done [] { s with store := { s.store with isProtected := true } }) h
      (by rw [hc]; rfl) hp (fun _ => hm) hb fun _ => hu
  · refine (takeDirective_of_offers (is := (· == 0x35)) h (by rw [hc]; rfl)).trans ?_
    show Host.Outcome.next (arbitrate (profileChecks 0 true true body _ (s.taken rest))) = _
    rw [profileChecks_of_protected (n := 0) (s := s.taken rest) hp rfl (by simp [hm]) hb ⟨rfl, hu⟩]
  · rw [exec_profileDefault h hc hp hm hb hu, setDefault_slot]
    rfl
  · rw [exec_profileDefault h hc hp hm hb hu, setDefault_none]
    rfl
  · intro p
    refine (takeProfile_of_passed (is := (· == 0x38)) (service := false) (unprotected := false)
      (act := fun b s => replyTo b .done (infoWords s.store) s) h (by rw [hc]; rfl) hp nofun hb nofun).trans ?_
    have hwords : infoWords s.store = [natWord (profileStateCode s.store.slots.p0.state),
        natWord (profileStateCode s.store.slots.p1.state), natWord (profileStateCode s.store.slots.p2.state),
        natWord (profileStateCode s.store.slots.p3.state), natWord s.store.slots.p0.wear, natWord s.store.slots.p1.wear,
        natWord s.store.slots.p2.wear, natWord s.store.slots.p3.wear, natWord (if s.store.isProtected then 1 else 0),
        natWord ((s.store.defaultSlot.map fun i => i.val).getD 4)] := by
      cases hprot : s.store.isProtected <;> cases hdef : s.store.defaultSlot <;>
        simp [infoWords, ProfileSlots.all, defaultCode, hprot, hdef]
    simp only [State.taken_store, hwords, p]

end Sys2Proof.Proofs
end

section
/-! PROOF. O20 (section 9.4, R167, R168) and O22 (R173): where an event and a reply go, and EVENT_MASK. -/

namespace Sys2Proof.Proofs

open Sys2Proof.Machine

variable {s : State}

/-! ### A reply of a settled note unit -/

theorem repliesPlaced_of_full {n : NoteUnit} (h : n.queue.length = noteSlots) : repliesPlaced n = [] := by
  simp [repliesPlaced, h]

/-- With a free slot no reply waits, so the one handed over is placed. -/
theorem repliesPlaced_of_room {n : NoteUnit} (hs : n.settled) (hq : n.queue.length < noteSlots) (r : WaitingReply) :
    repliesPlaced { n with replies := n.replies ++ [r] } = [r] := by
  have hr : n.replies = [] := (hs.2.resolve_left hq.ne).1
  simp only [repliesPlaced, hr, List.nil_append]
  exact List.take_of_length_le (by simp; omega)

theorem storeReply_of_room (hs : s.notes.settled) (hq : s.notes.queue.length < noteSlots) (code : Byte) (r : ResultCode)
    (ws : List Word) : storeReply code r ws s = { s with
      notes := { s.notes with queue := s.notes.queue ++ [.reply s.store.tag code r ws] }
      store := { s.store with busy := none } } := by
  simp [storeReply, fill, repliesPlaced_of_room hs hq, fillNotes_reply hs, hq]

theorem replyTo_of_full (hs : s.notes.settled) (hq : s.notes.queue.length = noteSlots) (body : List Byte) (r : ResultCode)
    (ws : List Word) : replyTo body r ws s = { s with
      notes := { s.notes with
        replies := s.notes.replies ++ [⟨.directiveUnit, .reply (dirTag body) (dirCode body) r ws⟩] }
      dirs := { s.dirs with replyWaiting := true } } := by
  have hplaced (w : WaitingReply) : repliesPlaced { s.notes with replies := s.notes.replies ++ [w] } = [] :=
    repliesPlaced_of_full hq
  simp [replyTo, fill, hplaced, fillNotes_reply hs, hq]

theorem storeReply_of_full (hs : s.notes.settled) (hq : s.notes.queue.length = noteSlots) (code : Byte) (r : ResultCode)
    (ws : List Word) : storeReply code r ws s = { s with
      notes := { s.notes with replies := s.notes.replies ++ [⟨.profileStore, .reply s.store.tag code r ws⟩] } } := by
  have hplaced (w : WaitingReply) : repliesPlaced { s.notes with replies := s.notes.replies ++ [w] } = [] :=
    repliesPlaced_of_full hq
  simp [storeReply, fill, hplaced, fillNotes_reply hs, hq]

/-- Settles O20: the three cases of a raise, and a reply with and without a free slot. -/
theorem eventsAndRepliesFindTheirPlace : Obligations.EventsAndRepliesFindTheirPlace := by
  refine ⟨fun k payload s => ⟨fun p hp => ?_, fun hn hu hq => ?_, fun hn hu => ?_⟩, fun s body code res payload hs =>
    ⟨fun hq => ⟨replyTo_of_room hs hq body res payload, storeReply_of_room hs hq code res payload⟩,
      fun hq => ⟨replyTo_of_full hs hq body res payload, storeReply_of_full hs hq code res payload⟩⟩⟩
  · simp [raise, raiseNote, hp]
  · have hroom : s.notes.queue.length < noteSlots := hq
    simp [raise, raiseNote, hn, hu, hroom]
  · have hfull : ¬(s.notes.unmasked.get k = true ∧ s.notes.queue.length < noteSlots) := by
      rintro ⟨hk, hroom⟩
      rcases hu with hu | hu
      · simp [hu] at hk
      · exact absurd hroom (Nat.not_lt.2 hu)
    simp only [raise, raiseNote, hn, if_neg hfull]

/-! ### EVENT_MASK (R173) -/

theorem masksOf_get (n : Nat) (k : EventKind) : (masksOf n).get k = decide (n / kindValue k % 2 = 1) := by
  cases k <;> exact Nat.testBit_eq_decide_div_mod_eq

/-- Filling only appends to the queue. -/
theorem foldl_emitPending_queue (l : List EventKind) (n : NoteUnit) : ∃ more, (l.foldl emitPending n).queue = n.queue ++ more := by
  induction l generalizing n with
  | nil => exact ⟨[], by simp⟩
  | cons k l ih =>
    obtain ⟨more, hmore⟩ := ih (emitPending n k)
    rw [List.foldl_cons, hmore]
    rcases emitPending_cases n k with ⟨e, -⟩ | ⟨p, -, -, -, e⟩ <;> rw [e]
    · exact ⟨more, rfl⟩
    · exact ⟨.event k p.superseded p.payload :: more, by simp⟩

/-- R171: with a free slot and no reply waiting, the reply handed over comes first. -/
theorem replyTo_queue (hq : s.notes.queue.length < noteSlots) (hr : s.notes.replies = []) (body : List Byte) (r : ResultCode)
    (ws : List Word) : ∃ more, (replyTo body r ws s).notes.queue =
      s.notes.queue ++ .reply (dirTag body) (dirCode body) r ws :: more := by
  obtain ⟨more, hmore⟩ := foldl_emitPending_queue eventKinds (fillReplies { s.notes with
    replies := s.notes.replies ++ [⟨.directiveUnit, .reply (dirTag body) (dirCode body) r ws⟩] })
  refine ⟨more, hmore.trans ?_⟩
  have hplaced : repliesPlaced { s.notes with replies := s.notes.replies ++
      [⟨.directiveUnit, .reply (dirTag body) (dirCode body) r ws⟩] } =
      [⟨.directiveUnit, .reply (dirTag body) (dirCode body) r ws⟩] := by
    simp only [repliesPlaced, hr, List.nil_append]
    exact List.take_of_length_le (by simp; omega)
  simp [fillReplies, hplaced]

/-- Settles O22: the masks by `masksOf_get`, the reply's place by `replyTo_queue`. -/
theorem eventMaskSetsTheSixMasks : Obligations.EventMaskSetsTheSixMasks := by
  intro s body rest enable h hc hp
  have hexec : exec .eventMask s = .next (arbitrate (setMasks body enable (s.taken rest))) :=
    takeDirective_params (act := fun b ps s => setMasks b (ps.getD 0 0) s) h (by rw [hc]; rfl) hp rfl
  refine ⟨fun hv => ?_, fun hv => ⟨masksOf enable, masksOf_get enable, ?_, fun hq hr => ?_⟩⟩
  · rw [hexec, setMasks, if_pos hv]
  · rw [hexec, setMasks, if_neg (Nat.not_lt.2 hv)]
    rfl
  · rw [setMasks, if_neg (Nat.not_lt.2 hv)] at hexec
    obtain ⟨more, hmore⟩ := replyTo_queue (s := { s.taken rest with notes := { s.notes with unmasked := masksOf enable } }) hq hr
      body .done [natWord enable, natWord (pendingSet s.notes.pending)]
    exact ⟨_, more, hexec, by rw [arbitrate_notes]; exact hmore⟩

end Sys2Proof.Proofs
end

section
/-! PROOF. O5, O6 (R4, R5, R6): the headers the inlet accepts, and the search for one. -/

namespace Sys2Proof.Proofs

open Sys2Proof.Machine

variable {s : State}

/-! ### A header's bytes -/

theorem toNat_append_byte (a b : Byte) : (a ++ b).toNat = 256 * a.toNat + b.toNat := by
  rw [BitVec.toNat_append, ← Nat.shiftLeft_add_eq_or_of_lt b.isLt, Nat.shiftLeft_eq]
  omega

/-- The length field reads back the length. -/
theorem halfAt_headerBytes (kind : PacketKind) {n : Nat} (hn : n < 65536) : (halfAt (headerBytes kind n) 3).toNat = n := by
  show (BitVec.ofNat 8 (n / 256) ++ BitVec.ofNat 8 n : BitVec 16).toNat = n
  rw [toNat_append_byte, BitVec.toNat_ofNat, BitVec.toNat_ofNat]
  omega

theorem inletKind_kindCode (kind : PacketKind) : inletKind (kindCode kind) =
    if kind = .openKind ∨ kind = .lineKind ∨ kind = .shutKind ∨ kind = .dirKind then some kind else none := by
  cases kind <;> rfl

theorem kindCode_of_inletKind {code : Byte} {kind : PacketKind} (h : inletKind code = some kind) : code = kindCode kind := by
  unfold inletKind at h
  split at h
  · cases h; assumption
  · split at h
    · cases h; assumption
    · split at h
      · cases h; assumption
      · split at h <;> cases h
        assumption

theorem testHeader_headerBytes (kind : PacketKind) {n : Nat} (hn : n < 65536) : testHeader (headerBytes kind n) =
    if kind = .openKind ∨ kind = .lineKind ∨ kind = .shutKind ∨ kind = .dirKind then
      (if lengthPermitted kind n then .ok (kind, n) else .error .badLength)
    else .error .unknownKind := by
  have hsync : ¬(byteAt (headerBytes kind n) 0 ≠ 0xC3 ∨ byteAt (headerBytes kind n) 1 ≠ 0x5D) := by
    rintro (h | h) <;> exact h rfl
  have hcheck : ¬byteAt (headerBytes kind n) 5 ≠ checkByte (byteAt (headerBytes kind n) 2) (byteAt (headerBytes kind n) 3)
      (byteAt (headerBytes kind n) 4) := fun h => h rfl
  have hkind : inletKind (byteAt (headerBytes kind n) 2) = _ := inletKind_kindCode kind
  rw [testHeader, if_neg hsync, if_neg hcheck, hkind, halfAt_headerBytes kind hn]
  by_cases hinlet : kind = .openKind ∨ kind = .lineKind ∨ kind = .shutKind ∨ kind = .dirKind
  · rw [if_pos hinlet, if_pos hinlet]
  · rw [if_neg hinlet, if_neg hinlet]

/-- Six bytes are what their fields say they are. -/
theorem headerBytes_of_testHeader {h : List Byte} {kind : PacketKind} {n : Nat} (hl : h.length = 6)
    (ht : testHeader h = .ok (kind, n)) : h = headerBytes kind n := by
  obtain ⟨a, b, c, d, e, f, rfl⟩ : ∃ a b c d e f, h = [a, b, c, d, e, f] := by
    match h, hl with
    | [a, b, c, d, e, f], _ => exact ⟨a, b, c, d, e, f, rfl⟩
  unfold testHeader at ht
  split at ht
  · cases ht
  · rename_i hsync
    split at ht
    · cases ht
    · rename_i hcheck
      split at ht
      · cases ht
      · rename_i k hk
        split at ht <;> cases ht
        have hab : a = 0xC3 ∧ b = 0x5D := by
          refine ⟨by_contra fun e => hsync (.inl e), by_contra fun e => hsync (.inr e)⟩
        have hc : c = kindCode kind := kindCode_of_inletKind hk
        have hf : f = checkByte c d e := by_contra fun e => hcheck e
        have hlen : (halfAt [a, b, c, d, e, f] 3).toNat = 256 * d.toNat + e.toNat := toNat_append_byte d e
        have hd : d = BitVec.ofNat 8 ((halfAt [a, b, c, d, e, f] 3).toNat / 256) := by
          refine BitVec.eq_of_toNat_eq ?_
          rw [hlen, BitVec.toNat_ofNat]
          omega
        have he : e = BitVec.ofNat 8 (halfAt [a, b, c, d, e, f] 3).toNat := by
          refine BitVec.eq_of_toNat_eq ?_
          rw [hlen, BitVec.toNat_ofNat]
          omega
        rw [headerBytes, ← hd, ← he, ← hc, ← hf, hab.1, hab.2]

/-- Settles O5: the test of an encoded header, and the encoding of a tested one. -/
theorem headerTestAcceptsExactlyTheEncodedHeaders : Obligations.HeaderTestAcceptsExactlyTheEncodedHeaders :=
  ⟨fun kind _ hn => testHeader_headerBytes kind hn, fun _ _ _ hl ht => headerBytes_of_testHeader hl ht⟩

/-! ### The search (R6) -/

theorem huntSearch_of_short {l : List Byte} (h : l.length ≤ 5) : huntSearch l = .inr l := by
  cases l with
  | nil => rfl
  | cons b rest =>
    rw [huntSearch, if_pos]
    simpa using h

/-- With six bytes the search tests the first position, and goes on behind its byte. -/
theorem huntSearch_of_failed {b : Byte} {rest : List Byte} (hl : 5 ≤ rest.length)
    (h : ∀ k m, testHeader ((b :: rest).take 6) ≠ .ok (k, m)) : huntSearch (b :: rest) = huntSearch rest := by
  conv_lhs => rw [huntSearch, if_neg (Nat.not_lt.2 hl)]
  split
  · exact absurd ‹_› (h _ _)
  · rfl

theorem huntSearch_of_header {header post : List Byte} {kind : PacketKind} {n : Nat} (hl : header.length = 6)
    (ht : testHeader header = .ok (kind, n)) : huntSearch (header ++ post) = .inl (kind, n, post) := by
  obtain ⟨b, rest, rfl⟩ := List.exists_cons_of_length_eq_add_one hl
  have hrest : rest.length = 5 := by simpa using hl
  have htake : (b :: (rest ++ post)).take 6 = b :: rest := by simp [← hrest]
  rw [List.cons_append, huntSearch, if_neg (by simp [hrest]), htake, ht]
  simp [← hrest]

/-- The first valid position locks. -/
theorem huntSearch_first (pre : List Byte) {header post : List Byte} {kind : PacketKind} {n : Nat} (hl : header.length = 6)
    (ht : testHeader header = .ok (kind, n))
    (hfirst : ∀ i, i < pre.length → ∀ k m, testHeader (((pre ++ header ++ post).drop i).take 6) ≠ .ok (k, m)) :
    huntSearch (pre ++ header ++ post) = .inl (kind, n, post) := by
  induction pre with
  | nil => exact huntSearch_of_header hl ht
  | cons b pre ih =>
    have hfailed := hfirst 0 (by simp)
    refine (huntSearch_of_failed (by simp; omega) hfailed).trans (ih fun i hi => ?_)
    exact hfirst (i + 1) (by simpa using hi)

/-- With no valid position the last five bytes stay. -/
theorem huntSearch_none (l : List Byte) (h : ∀ i, i + 6 ≤ l.length → ∀ k m, testHeader ((l.drop i).take 6) ≠ .ok (k, m)) :
    huntSearch l = .inr (l.drop (l.length - 5)) := by
  induction l with
  | nil => rfl
  | cons b rest ih =>
    by_cases hl : rest.length < 5
    · rw [huntSearch_of_short (by simpa using hl), List.length_cons, Nat.sub_eq_zero_of_le (by omega), List.drop_zero]
    · have hrest := ih fun i hi => h (i + 1) (by simpa using hi)
      rw [huntSearch_of_failed (Nat.not_lt.1 hl) (h 0 (by simp; omega)), hrest, List.length_cons,
        show rest.length + 1 - 5 = rest.length - 5 + 1 by omega, List.drop_succ_cons]

theorem exec_huntLock {kept : List Byte} (hp : s.power = .running) (hf : s.inlet.framing = .hunt kept) (bytes : List Byte) :
    exec (.huntLock bytes) s = .next (arbitrate (huntStep bytes s)) := by
  show event inHunt (huntStep bytes) s = _
  exact event_enabled hp (by simp [inHunt, hf])

theorem huntBytes_of_hunt {kept : List Byte} (hf : s.inlet.framing = .hunt kept) : huntBytes s = kept := by
  simp [huntBytes, hf]

/-- Settles O6: the search over the bytes kept and the new ones, found or not. -/
theorem huntLocksOnTheFirstValidHeader : Obligations.HuntLocksOnTheFirstValidHeader := by
  intro s kept bytes hp hf
  refine ⟨fun pre header post kind n hsplit hl ht hfirst hpost => ?_, fun hnone => ?_⟩
  · rw [hsplit] at hfirst
    have hsearch := huntSearch_first pre hl ht hfirst
    rw [exec_huntLock hp hf, huntStep, huntBytes_of_hunt hf, hsplit, hsearch]
    simp only [setFraming, List.take_of_length_le (show post.length ≤ n - 1 by omega),
      show bytes.length - (post.length - (n - 1)) = bytes.length by omega]
  · rw [exec_huntLock hp hf, huntStep, huntBytes_of_hunt hf, huntSearch_none _ hnone]
    rfl

end Sys2Proof.Proofs
end

section
/-! PROOF. O7 (R7, R8, R55) and O15 (R1, R5, R7, R166): a header tested in LOCKED, and a whole packet received. -/

namespace Sys2Proof.Proofs

open Sys2Proof.Machine

variable {s : State} {i : Fin 3} {f : CapturedFrame}

/-! ### A freed slot stays free through a decided outcome -/

/-- Slot i is FREE and not in the capture order. -/
def SlotGone (i : Fin 3) (s : State) : Prop := s.capture.slots.get i = none ∧ i ∉ s.capture.order

theorem slotGone_freeSlot (i : Fin 3) (s : State) : SlotGone i (freeSlot i s) := by simp [SlotGone]

theorem slotGone_sweepClosed : SweepClosed (SlotGone i) := by
  rintro s t part ⟨hslot, hout⟩
  cases part with
  | freeSlot j =>
    refine ⟨?_, fun h => hout (List.mem_filter.1 h).1⟩
    rw [freeSlot_slots, FrameSlots.get_set]
    split
    · rfl
    · exact hslot
  | examineTiles => exact ⟨by simpa using hslot, by simpa using hout⟩
  | _ => exact ⟨hslot, hout⟩

theorem damageFilling_of_filling (hi : fillingSlot s = some i) (hf : s.capture.slots.get i = some f) :
    damageFilling s = s.damaged i f := by
  simp only [damageFilling, hi, damageFrame, hf]
  rfl

theorem damageFilling_of_none (h : fillingSlot s = none) : damageFilling s = s := by
  simp [damageFilling, h]

/-- R55: a damaged frame's slot is FREE afterwards, and has left the capture order. -/
theorem slotGone_damaged (i : Fin 3) (f : CapturedFrame) (s : State) : SlotGone i (s.damaged i f) :=
  slotGone_sweepClosed.decideOutcome _ (slotGone_freeSlot i s)

theorem exec_syncLoss {header : List Byte} (hp : s.power = .running) (hf : s.inlet.framing = .locked none)
    (hl : header.length = 6) : exec (.syncLoss header) s = .next (arbitrate (testNextHeader header s)) := by
  show event (fun s => decide (header.length = 6) && awaitsHeader s) (testNextHeader header) s = _
  exact event_enabled hp (by simp [awaitsHeader, hf, hl])

/-- Settles O7: the failed header's effects, then the FILLING frame's damage; the valid header's framing. -/
theorem failedHeaderLosesSync : Obligations.FailedHeaderLosesSync := by
  intro s header hp hf hl
  refine ⟨fun fault ht => ?_, fun kind n ht => ?_⟩
  · intro u
    have hexec : exec (.syncLoss header) s = .next (arbitrate (damageFilling u)) := by
      rw [exec_syncLoss hp hf hl, testNextHeader, ht]
      rfl
    have hfilling : fillingSlot u = fillingSlot s := fillingSlot_congr rfl
    refine ⟨fun hnone => ?_, fun i g hi hg => ?_⟩
    · rw [hexec, damageFilling_of_none (hfilling.trans hnone)]
    · rw [hexec, damageFilling_of_filling (hfilling.trans hi) hg]
      obtain ⟨hslot, hout⟩ := slotGone_damaged i g u
      refine ⟨rfl, _, rfl, by simpa using hslot, by simpa using hout, ?_⟩
      simp [State.damaged, u]
  · rw [exec_syncLoss hp hf hl, testNextHeader, ht]
    rfl

/-! ### Which body makes a packet whole -/

theorem lengthPermitted_iff {kind : PacketKind}
    (hk : kind = .openKind ∨ kind = .lineKind ∨ kind = .shutKind ∨ kind = .dirKind) (n : Nat) :
    lengthPermitted kind n = true ↔ (kind = .openKind → n = 12) ∧ (kind = .lineKind → 2 ≤ n ∧ n ≤ 3842) ∧
      (kind = .shutKind → n = 2) ∧ (kind = .dirKind → 2 ≤ n ∧ n ≤ 258) := by
  rcases hk with rfl | rfl | rfl | rfl <;> simp [lengthPermitted]

theorem canComplete_iff {kind : PacketKind} {body : List Byte} : canComplete kind body s = true ↔
    lengthPermitted kind body.length = true ∧ (s.inlet.framing = .locked none ∨
      ∃ received, s.inlet.framing = .locked (some ⟨kind, body.length, received⟩) ∧ received <+: body) := by
  unfold canComplete
  rw [Bool.and_eq_true]
  refine and_congr_right fun _ => ?_
  split
  · simp [*]
  · simp [*]
  · rename_i p hp
    obtain ⟨k, n, received⟩ := p
    simp only [hp, Bool.and_eq_true, decide_eq_true_eq, List.isPrefixOf_iff_prefix]
    constructor
    · rintro ⟨⟨rfl, rfl⟩, hpre⟩
      exact .inr ⟨received, rfl, hpre⟩
    · rintro (h | ⟨r, h, hpre⟩) <;> cases h
      exact ⟨⟨rfl, rfl⟩, hpre⟩

theorem exec_dirPacket {body : List Byte} (hp : s.power = .running) (hc : canComplete .dirKind body s = true) :
    exec (.dirPacket body) s = .next (arbitrate (queueDirective body (receivePacket body s))) := by
  show event (canComplete .dirKind body) (fun s => queueDirective body (receivePacket body s)) s = _
  rw [event_enabled hp hc]

/-- Settles O15: the queue with and without room, and the receiver's test written out. -/
theorem directivePacketIsQueuedOrDropped : Obligations.DirectivePacketIsQueuedOrDropped := by
  refine ⟨fun s body hp hc => ⟨fun hq => ?_, fun hq => ?_⟩, fun s kind body hk => ?_⟩
  · rw [exec_dirPacket hp hc, queueDirective, if_pos (show (receivePacket body s).dirs.queue.length < directiveRoom from hq)]
    rfl
  · rw [exec_dirPacket hp hc, queueDirective,
      if_neg (show ¬(receivePacket body s).dirs.queue.length < directiveRoom from Nat.not_lt.2 hq)]
    rfl
  · intro n permitted whole
    refine ⟨?_, fun hf => ?_, fun p hf => ?_⟩
    · rw [canComplete_iff, lengthPermitted_iff hk]
    · simp [receivePacket, setFraming, bytesToWhole, hf, whole, n]
    · simp [receivePacket, setFraming, bytesToWhole, hf, whole, n]

end Sys2Proof.Proofs
end

section
/-! PROOF. O16 (R13, R14, section 1.6, R158 to R161): whom the idle lane takes, and the bytes of what the part sends. -/

namespace Sys2Proof.Proofs

open Sys2Proof.Machine

variable {s : State}

/-! ### The arbiter on an idle lane, behind the notes -/

theorem arbitrate_of_run {r : Run} (hp : s.power = .running) (hh : s.holdLine = false) (ho : s.outlet.sending = none)
    (hf : s.forward = []) (hn : s.notes.queue = []) (hr : s.ring.run = some r) : arbitrate s = startTilePacket r s := by
  simp [arbitrate, hp, hh, ho, hf, hn, hr]

theorem arbitrate_of_idle (hf : s.forward = []) (hn : s.notes.queue = []) (hr : s.ring.run = none) : arbitrate s = s := by
  simp [arbitrate, hf, hn, hr]

theorem exec_outletHold (b : Bool) : exec (.outletHold b) s = .next (arbitrate { s with holdLine := b }) := rfl

theorem startTilePacket_eq (r : Run) : startTilePacket r s =
    { s with
      outlet := { s.outlet with sending := some ⟨.tile, runPacket s r, false⟩ }
      sweep := { s.sweep with
        tilesEmitted := s.sweep.tilesEmitted + if r.next = .tileEnd ∧ r.status = .complete then 1 else 0 } } := by
  unfold startTilePacket
  dsimp only
  split <;> rfl

/-! ### Words and rows as bytes -/

theorem extract_byte (w : Word) (k : Nat) (n : Nat) (h : n % 256 = w.toNat / 2 ^ k % 256) :
    w.extractLsb' k 8 = BitVec.ofNat 8 n := by
  refine BitVec.eq_of_toNat_eq ?_
  rw [BitVec.extractLsb'_toNat, BitVec.toNat_ofNat, Nat.shiftRight_eq_div_pow]
  exact h.symm

theorem wordBytes_eq (w : Word) : wordBytes w = halfBytes (w.toNat / 65536) ++ halfBytes w.toNat := by
  unfold wordBytes halfBytes
  rw [extract_byte w 24 (w.toNat / 65536 / 256) (by rw [Nat.div_div_eq_div_mul]; rfl), extract_byte w 16 (w.toNat / 65536) rfl,
    extract_byte w 8 (w.toNat / 256) rfl, extract_byte w 0 w.toNat (by rw [Nat.pow_zero, Nat.div_one])]
  rfl

theorem flatMap_wordBytes (l : List Word) :
    l.flatMap wordBytes = l.flatMap fun w => halfBytes (w.toNat / 65536) ++ halfBytes w.toNat :=
  congrArg l.flatMap (funext wordBytes_eq)

theorem resultByte_eq_idxOf (r : ResultCode) : resultByte r = BitVec.ofNat 8
    ([ResultCode.done, .busy, .wrongState, .unknown, .format, .range, .notPermitted, .isProtected, .notBlank, .notWritten, .worn,
      .invalidTable, .sequence, .repeated, .mismatch, .noTables].idxOf r) := by
  cases r <;> rfl

theorem eventByte_eq_idxOf (k : EventKind) : eventByte k = BitVec.ofNat 8
    (1 + [EventKind.sweepState, .frameOutcome, .creditStarved, .linkSync, .directiveOverrun, .passthroughDrop].idxOf k) := by
  cases k <;> rfl

/-- The first n elements in the order they are sent (R160). -/
theorem inSceneOrder_take_map {α β : Type} (d : Direction) (f : α → β) (l : List α) (y : α) {n : Nat} (hn : n ≤ l.length) :
    inSceneOrder d ((l.take n).map f) =
      (List.range n).map fun j => f (l.getD (if decide (d = .leftward) = true then n - 1 - j else j) y) := by
  have hl : ((l.take n).map f).length = n := by simp [hn]
  obtain ⟨hlen, hget⟩ := inSceneOrder_spec d ((l.take n).map f) (f y)
  rw [hl] at hlen hget
  refine List.ext_getElem (by rw [hlen, List.length_map, List.length_range]) fun j h1 h2 => ?_
  have hj : j < n := hlen ▸ h1
  have hin : (if d = .leftward then n - 1 - j else j) < n := by split <;> omega
  have := hget j hj
  rw [List.getD_eq_getElem _ _ h1] at this
  rw [this, List.getD_eq_getElem _ _ (by rw [hl]; exact hin)]
  simp only [decide_eq_true_eq, List.getElem_map, List.getElem_take, List.getElem_range]
  rw [List.getD_eq_getElem]

theorem runPacket_head {r : Run} (h : r.next = .head) : runPacket s r = tileHeadPacket r s.sweep.params.direction s.sweep.hc := by
  simp only [runPacket, h]

theorem runPacket_tileEnd {r : Run} (h : r.next = .tileEnd) : runPacket s r = tileEndPacket r := by
  simp only [runPacket, h]

theorem runPacket_row {r : Run} {n : Nat} {t : Tile} (h : r.next = .row n)
    (ht : (s.ring.tiles.find? fun t => decide (t.index = r.tile)) = some t) :
    runPacket s r = tileRowPacket t r.columns n s.sweep.params.direction := by
  simp only [runPacket, h, ht, Option.getD_some]

theorem mirroredFlag_eq (d : Direction) :
    (BitVec.ofNat 8 (mirroredFlag d) : Byte) = if decide (d = .leftward) = true then 1 else 0 := by
  cases d <;> rfl

theorem runStatusByte_eq (st : RunStatus) : runStatusByte st = if st = .complete then 0 else 1 := by
  cases st <;> rfl

/-- Settles O16: the boundary's first claimant, and the bytes of every packet of the part's own. -/
theorem holdReleaseStartsTheFirstClaimant : Obligations.HoldReleaseStartsTheFirstClaimant := by
  refine ⟨fun s => ⟨?_, ?_, ?_⟩, fun p => rfl, rfl, rfl, rfl, rfl, fun payload => ⟨?_, ?_⟩, fun s r => ⟨?_, ?_, ?_⟩⟩
  · rw [exec_outletHold, arbitrate_blocked (s := { s with holdLine := true }) (.inr (.inl rfl))]
  · intro h
    rw [exec_outletHold, arbitrate_blocked (s := { s with holdLine := false }) (h.imp_right .inr)]
  · intro hp ho
    refine ⟨fun p q hf => ?_, fun hf n q hn => ?_, fun hf hn => ⟨fun hr => ?_, fun r hr => ?_⟩⟩
    · rw [exec_outletHold, arbitrate_of_forward (s := { s with holdLine := false }) (q := q) hp rfl ho hf]
      rfl
    · rw [exec_outletHold, arbitrate_of_note (s := { s with holdLine := false }) (q := q) hp rfl ho hf hn]
      rfl
    · rw [exec_outletHold, arbitrate_of_idle (s := { s with holdLine := false }) hf hn hr]
    · rw [exec_outletHold, arbitrate_of_run (s := { s with holdLine := false }) hp rfl ho hf hn hr, startTilePacket_eq]
      rfl
  · intro tag code r
    show (⟨_, _ ++ _⟩ : Packet) = _
    rw [flatMap_wordBytes, resultByte_eq_idxOf]
    rfl
  · intro k n
    show (⟨_, _ ++ _⟩ : Packet) = _
    rw [flatMap_wordBytes, eventByte_eq_idxOf]
    rfl
  · intro h
    rw [runPacket_head h, tileHeadPacket, mirroredFlag_eq]
    rfl
  · intro h
    rw [runPacket_tileEnd h, tileEndPacket, runStatusByte_eq]
    rfl
  · intro n t h ht hluma hchroma
    rw [runPacket_row h ht, tileRowPacket]
    dsimp only
    rw [inSceneOrder_take_map _ _ _ [] hluma, inSceneOrder_take_map _ _ _ [] hchroma, List.flatMap_map]
    rfl

end Sys2Proof.Proofs
end

section
/-! PROOF. O17, O18 (R15, R36, R161, R171): the completion of a sent packet, and what the note unit does with the slot it
leaves. -/

namespace Sys2Proof.Proofs

open Sys2Proof.Machine

variable {s : State}

/-! ### A note slot set free (R171) -/

theorem foldl_emitPending_masked {n : NoteUnit} : ∀ {l : List EventKind},
    (∀ k ∈ l, n.unmasked.get k = true → n.pending.get k = none) → l.foldl emitPending n = n
  | [], _ => rfl
  | k :: l, h => by
    rw [List.foldl_cons, emitPending_idle (.inr (h k List.mem_cons_self)),
      foldl_emitPending_masked fun j hj => h j (List.mem_cons_of_mem _ hj)]

/-- The oldest waiting reply takes the last free slot. -/
theorem fillNotes_of_reply {n : NoteUnit} {r : WaitingReply} {rest : List WaitingReply} (hq : n.queue.length + 1 = noteSlots)
    (hr : n.replies = r :: rest) : fillNotes n = { n with queue := n.queue ++ [r.note], replies := rest } := by
  have hroom : noteSlots - n.queue.length = 1 := by omega
  have hfill : fillReplies n = { n with queue := n.queue ++ [r.note], replies := rest } := by
    simp [fillReplies, repliesPlaced, hroom, hr]
  rw [fillNotes, hfill, foldl_emitPending_idle (.inl (by simpa using hq))]

theorem fillReplies_of_none {n : NoteUnit} (hr : n.replies = []) : fillReplies n = n := by
  cases n
  simp_all [fillReplies, repliesPlaced]

/-- With no reply waiting, the first unmasked pending kind takes the last free slot. -/
theorem fillNotes_of_pending {n : NoteUnit} {pre post : List EventKind} {k : EventKind} {e : PendingRecord}
    (hq : n.queue.length + 1 = noteSlots) (hr : n.replies = []) (hkinds : eventKinds = pre ++ k :: post)
    (hpre : ∀ j ∈ pre, n.unmasked.get j = true → n.pending.get j = none) (hu : n.unmasked.get k = true)
    (hp : n.pending.get k = some e) : fillNotes n =
      { n with queue := n.queue ++ [.event k e.superseded e.payload], pending := n.pending.set k none } := by
  have hroom : n.queue.length < noteSlots := by omega
  have hemit : emitPending n k =
      { n with queue := n.queue ++ [.event k e.superseded e.payload], pending := n.pending.set k none } := by
    simp [emitPending, hp, hu, hroom]
  rw [fillNotes, fillReplies_of_none hr, hkinds, List.foldl_append, foldl_emitPending_masked hpre, List.foldl_cons, hemit,
    foldl_emitPending_idle (.inl (by simpa using hq))]

/-- With no reply waiting and no unmasked kind pending there is nothing to fill a slot with. -/
theorem fill_of_idle (hr : s.notes.replies = []) (hp : ∀ k, s.notes.unmasked.get k = true → s.notes.pending.get k = none) :
    fill s = s := by
  have hplaced : repliesPlaced s.notes = [] := by simp [repliesPlaced, hr]
  have hnotes : fillNotes s.notes = s.notes := by
    rw [fillNotes, fillReplies_of_none hr, foldl_emitPending_idle (.inr hp)]
  unfold fill
  rw [hplaced, hnotes]
  simp

/-! ### A packet's completion, by its claimant (R15) -/

theorem exec_outletPacketComplete {x : Sending} (hrun : s.power = .running) (hx : s.outlet.sending = some x) :
    exec .outletPacketComplete s = .next (arbitrate (completePacket x (idleLane (6 + x.packet.body.length) s))) := by
  have henabled : sendingSome s = true := by rw [sendingSome, hx]; rfl
  have heffect : outletComplete s = completePacket x (idleLane (6 + x.packet.body.length) s) := by
    rw [outletComplete, hx]
    rfl
  rw [← heffect]
  exact event_enabled hrun henabled

theorem completeTilePacket_of_run {r : Run} (hr : s.ring.run = some r) (hn : r.next ≠ .tileEnd) :
    completeTilePacket s = { s with ring := { s.ring with run := some (advanceRun s.sweep.hc r) } } := by
  simp [completeTilePacket, hr, hn]

theorem advanceRun_of_head {r : Run} (hc : Nat) (h : r.next = .head) :
    advanceRun hc r = { r with next := if r.status = .abandoned then .tileEnd else .row 0 } := by
  simp only [advanceRun, h]

theorem advanceRun_of_row {r : Run} {n : Nat} (hc : Nat) (h : r.next = .row n) : advanceRun hc r =
    { r with rowsSent := r.rowsSent + 1, next := if r.status = .abandoned ∨ hc ≤ n + 1 then .tileEnd else .row (n + 1) } := by
  simp only [advanceRun, h]

/-- Settles O17: the claimant told, and for a note the slot's next taker. -/
theorem completedPacketIsReportedToItsClaimant : Obligations.CompletedPacketIsReportedToItsClaimant := by
  intro s p orphan hrun idle
  have htail (h16 : s.notes.queue.length = 16) : s.notes.queue.tail.length + 1 = noteSlots := by
    rw [List.length_tail, h16]
    rfl
  refine ⟨fun hx => ?_, fun hx => ?_, fun hx h16 => ⟨fun r rest hr => ?_, fun pre k post e hr hk hpre hu hp => ?_⟩,
    fun hx hidle => ?_, fun r hx hr => ⟨fun hn => ?_, fun n hn => ?_⟩⟩
  · rw [exec_outletPacketComplete hrun hx]
    rfl
  · rw [exec_outletPacketComplete hrun hx]
    rfl
  · refine ⟨_, exec_outletPacketComplete hrun hx, (arbitrate_notes _).trans ?_⟩
    exact fillNotes_of_reply (n := { s.notes with queue := s.notes.queue.tail }) (htail h16) hr
  · refine ⟨_, exec_outletPacketComplete hrun hx, (arbitrate_notes _).trans ?_⟩
    exact fillNotes_of_pending (n := { s.notes with queue := s.notes.queue.tail }) (htail h16) hr hk hpre hu hp
  · have hnone : s.notes.replies = [] ∧ ∀ k, s.notes.unmasked.get k = true → s.notes.pending.get k = none := by
      rcases hidle with ⟨hsettled, hroom⟩ | hnone
      · exact hsettled.2.resolve_left (Nat.ne_of_lt hroom)
      · exact hnone
    rw [exec_outletPacketComplete hrun hx]
    exact congrArg (fun t => Host.Outcome.next (arbitrate t)) (fill_of_idle hnone.1 hnone.2)
  · rw [exec_outletPacketComplete hrun hx, ← advanceRun_of_head s.sweep.hc hn]
    exact congrArg (fun t => Host.Outcome.next (arbitrate t))
      (completeTilePacket_of_run (s := idleLane (6 + p.body.length) s) hr (by rw [hn]; simp))
  · rw [exec_outletPacketComplete hrun hx, ← advanceRun_of_row s.sweep.hc hn]
    exact congrArg (fun t => Host.Outcome.next (arbitrate t))
      (completeTilePacket_of_run (s := idleLane (6 + p.body.length) s) hr (by rw [hn]; simp))

/-! ### A TILEEND's completion and the drain (R36, R161) -/

/-- R36: the drain is complete when no work and no tile is left. -/
theorem drainComplete_iff : drainComplete s = true ↔ s.sweep.state = .draining ∧ (∀ i, slotState s i ≠ some .registering) ∧
    s.comp.queue = [] ∧ s.comp.writing = false ∧ s.ring.tiles = [] := by
  have hlow : lowestIn (some .registering) s = none ↔ ∀ i, slotState s i ≠ some .registering := by
    refine ⟨fun h i => lowestIn_none h i, fun h => ?_⟩
    cases hi : lowestIn (some .registering) s with
    | none => rfl
    | some i => exact absurd (lowestIn_spec hi).1 (h i)
  simp only [drainComplete, Bool.and_eq_true, decide_eq_true_eq, Option.isNone_iff_eq_none, List.isEmpty_iff, Bool.not_eq_true',
    hlow, and_assoc]

theorem testDrain_of_complete (h : drainComplete s = true) : testDrain s = changeSweep .ended s.sweep.cause s := by
  rw [testDrain, if_pos h]

theorem testDrain_of_incomplete (h : ¬drainComplete s = true) : testDrain s = s := by
  rw [testDrain, if_neg h]

/-- Settles O18: the two names of one event, and the drain's test behind it. -/
theorem tileEndFreesItsTileAndMayEndTheDrain : Obligations.TileEndFreesItsTileAndMayEndTheDrain := by
  intro s p orphan r hrun hx hr hn u
  have hone : exec .outletPacketComplete s = .next (arbitrate (testDrain u)) := by
    rw [exec_outletPacketComplete hrun hx]
    refine congrArg (fun t => Host.Outcome.next (arbitrate t)) ?_
    show completeTilePacket (idleLane (6 + p.body.length) s) = testDrain u
    simp [completeTilePacket, idleLane, hr, hn, completeTileEnd, u, saturate16]
  have hother : exec .tileendComplete s = .next (arbitrate (outletComplete s)) :=
    event_enabled hrun (by simp [sendingTileEnd, tileOnOutlet, hx, hr, hn])
  have hsame : exec .outletPacketComplete s = exec .tileendComplete s := by
    rw [hother]
    exact event_enabled hrun (by simp [sendingSome, hx])
  refine ⟨hsame, fun hd => ?_, fun hd => ?_⟩
  · rw [← hsame, hone, testDrain_of_complete (drainComplete_iff.2 hd)]
    rfl
  · rw [← hsame, hone, testDrain_of_incomplete fun h => hd (drainComplete_iff.1 h)]

end Sys2Proof.Proofs
end

section
/-! PROOF. O19 (R153, R157, R158, R164, R165): the take of a tile's run, and the abort that arrives with it. -/

namespace Sys2Proof.Proofs

open Sys2Proof.Machine

variable {s t : State}

/-! ### The take (R157) -/

theorem newRun_of_find {n : Nat} {tile : Tile} (h : (s.ring.tiles.find? fun u => decide (u.index = n)) = some tile) :
    newRun n s = ⟨s.sweep.id, n, (min 64 (s.placement.e - 64 * n + 1)).toNat, (tileEnds s.sweep.hc tile).1,
      (tileEnds s.sweep.hc tile).2, .complete, 0, .head⟩ := by
  rw [newRun, h]
  rfl

theorem canTakeRun_iff : canTakeRun s = true ↔ s.ring.run = none ∧ 0 < s.ring.credits ∧ s.ring.sealedQueue ≠ [] := by
  simp [canTakeRun, and_assoc]

/-- R165: the take clears the flag, and begins a new episode where it leaves no credit and a tile waiting. -/
theorem takeRun_of_cons {n : Nat} {rest : List Nat} (hq : s.ring.sealedQueue = n :: rest) (hc : 0 < s.ring.credits) :
    takeRun s =
      let starving := decide (s.ring.credits = 1 ∧ rest ≠ [])
      let u : State := { s with ring := { s.ring with
        tiles := s.ring.tiles.map fun v => if v.index = n then { v with state := .emitting } else v
        sealedQueue := rest
        credits := s.ring.credits - 1
        starved := starving
        run := some (newRun n s) } }
      if starving then raise .creditStarved
        [natWord s.sweep.id, natWord (rest.headD 0), natWord rest.length, natWord s.ring.tiles.length] u else u := by
  have hzero : s.ring.credits - 1 = 0 ↔ s.ring.credits = 1 := by omega
  unfold takeRun
  rw [hq]
  by_cases hstarving : s.ring.credits = 1 ∧ rest ≠ []
  · have hmodel : s.ring.credits - 1 = 0 ∧ rest ≠ [] := ⟨hzero.2 hstarving.1, hstarving.2⟩
    simp [hstarving, beginStarvation, starvedWords]
  · have hmodel : ¬(s.ring.credits - 1 = 0 ∧ rest ≠ []) := fun h => hstarving ⟨hzero.1 h.1, h.2⟩
    simp only [hmodel, hstarving, decide_false, if_false, Bool.false_eq_true]

/-! ### The run settled as the ring is emptied (R164) -/

theorem tileOnOutlet_congr (h : t.outlet = s.outlet) : tileOnOutlet t = tileOnOutlet s := by
  unfold tileOnOutlet
  rw [h]

theorem settleRun_of_none (hr : s.ring.run = none) : settleRun s = s := by
  simp only [settleRun, hr]

theorem settleRun_of_head {r : Run} (hr : s.ring.run = some r) (hn : r.next = .head) (ho : tileOnOutlet s = false) :
    settleRun s = { s with ring := { s.ring with run := none, credits := min 255 (s.ring.credits + 1) } } := by
  simp only [settleRun, hr, hn, ho]

/-- The run in progress and the packet on the outlet settle the ring; the rest of the state does not matter. -/
theorem settleRun_ring_congr (hr : t.ring = s.ring) (ho : t.outlet = s.outlet) : (settleRun t).ring = (settleRun s).ring := by
  unfold settleRun
  rw [hr, tileOnOutlet_congr ho]
  split
  · exact hr
  · split
    · rfl
    · rfl
    · exact hr
    · rfl

theorem emptyRing_ring (s : State) :
    (emptyRing s).ring = { (settleRun s).ring with tiles := [], sealedQueue := [], starved := false } := by
  have hout : tileOnOutlet { s with ring := { s.ring with tiles := [], sealedQueue := [], starved := false } } =
      tileOnOutlet s := rfl
  unfold emptyRing settleRun
  rw [hout]
  dsimp only
  split
  · rfl
  · split <;> rfl

theorem foldl_abortSlot_ring (s : State) : (s.capture.order.foldl abortSlot s).ring = s.ring :=
  foldl_keeps abortSlot (·.ring) (fun u i => by unfold abortSlot; split <;> simp) _ s

theorem foldl_abortSlot_outlet (s : State) : (s.capture.order.foldl abortSlot s).outlet = s.outlet :=
  foldl_keeps abortSlot (·.outlet) (fun u i => by unfold abortSlot; split <;> simp) _ s

/-- What an abort leaves of the ring. -/
theorem abortSweep_ring_eq (s : State) :
    (abortSweep s).ring = { (settleRun s).ring with tiles := [], sealedQueue := [], starved := false } := by
  have hsettle := settleRun_ring_congr
    (t := emptyCompositor (stopRegistration (s.capture.order.foldl abortSlot s))) (s := s)
    (foldl_abortSlot_ring s) (foldl_abortSlot_outlet s)
  rw [abortSweep, changeSweep_ring, emptyRing_ring, hsettle]

theorem abortSweep_outlet (s : State) : (abortSweep s).outlet = s.outlet := by
  rw [abortSweep, changeSweep_outlet, emptyRing_outlet]
  exact foldl_abortSlot_outlet s

theorem abortSweep_pending (s : State) : (abortSweep s).pending = s.pending := by
  rw [abortSweep, changeSweep_pending, emptyRing_pending]
  exact foldl_keeps abortSlot (·.pending) (fun u i => by unfold abortSlot; split <;> simp) _ s

/-! ### A take and an abort together (R157) -/

/-- Without a run the arbiter has no tile packet to start. -/
theorem tileOnOutlet_arbitrate (hr : s.ring.run = none) (ho : tileOnOutlet s = false) : tileOnOutlet (arbitrate s) = false := by
  rcases arbitrate_cases s with e | ⟨-, -, -, c, p, hout, hclaim⟩
  · rw [e, ho]
  · rcases hclaim with ⟨q, -, rfl⟩ | ⟨-, n, q, -, rfl, -⟩ | ⟨-, -, r, hrun, -⟩
    · simp [tileOnOutlet, hout]
    · simp [tileOnOutlet, hout]
    · rw [hr] at hrun
      cases hrun

/-- The claimants ahead of the emitter start no tile packet. -/
theorem tileOnOutlet_arbitrateAhead (ho : tileOnOutlet s = false) : tileOnOutlet (arbitrateAhead s) = false := by
  unfold arbitrateAhead
  split
  · exact ho
  · rename_i hahead
    rcases arbitrate_cases s with e | ⟨-, -, -, c, p, hout, hclaim⟩
    · rw [e, ho]
    · rcases hclaim with ⟨q, -, rfl⟩ | ⟨-, n, q, -, rfl, -⟩ | ⟨hf, hn, -⟩
      · simp [tileOnOutlet, hout]
      · simp [tileOnOutlet, hout]
      · exact absurd ⟨hf, hn⟩ hahead

/-- The sweep is over and nothing of a run is left: what the two orders of R157 both come to. -/
structure RunThrownAway (credits : Nat) (queue : List Instr) (u : State) : Prop where
  run : u.ring.run = none
  tiles : u.ring.tiles = []
  sealed : u.ring.sealedQueue = []
  credits : u.ring.credits = credits
  outlet : tileOnOutlet u = false
  state : u.sweep.state = .ended
  pending : u.pending = queue

theorem doSweepAbort_of_running {body : List Byte} (hps : dirParams body = some []) (hi : s.sweep.state ≠ .idle)
    (he : s.sweep.state ≠ .ended) : doSweepAbort body s = sweepDone body (abortSweep s) := by
  have hruns : sweepRuns s.sweep.state = true := by simp [sweepRuns, hi, he]
  simp [doSweepAbort, withParams, hps, hruns]

/-- An abort that leaves no run leaves none of its packets either, and ends the sweep. -/
theorem exec_sweepAbort_throws {body : List Byte} {rest : List (List Byte)} {c : Nat} (h : s.offers body rest)
    (hc : dirCode body = 0x12) (hps : dirParams body = some []) (hi : s.sweep.state ≠ .idle) (he : s.sweep.state ≠ .ended)
    (ho : tileOnOutlet s = false) (hrun : (settleRun (s.taken rest)).ring.run = none)
    (hcredits : (settleRun (s.taken rest)).ring.credits = c) :
    ∃ u, exec .sweepAbort s = .next u ∧ RunThrownAway c s.pending u := by
  have hring : (sweepDone body (abortSweep (s.taken rest))).ring =
      { (settleRun (s.taken rest)).ring with tiles := [], sealedQueue := [], starved := false } := abortSweep_ring_eq _
  refine ⟨_, exec_sweepAbort_of_offers h hc, ?_⟩
  rw [doSweepAbort_of_running (s := s.taken rest) hps hi he]
  refine ⟨?_, ?_, ?_, ?_, tileOnOutlet_arbitrate ?_ ?_, ?_, ?_⟩
  · rw [arbitrate_ring, hring]
    exact hrun
  · rw [arbitrate_ring, hring]
  · rw [arbitrate_ring, hring]
  · rw [arbitrate_ring, hring]
    exact hcredits
  · rw [hring]
    exact hrun
  · rw [← ho]
    exact tileOnOutlet_congr (abortSweep_outlet _)
  · rw [arbitrate_sweep_state]
    exact congrArg Sweep.state (abortSweep_sweep (s.taken rest))
  · rw [arbitrate_pending]
    exact abortSweep_pending (s.taken rest)

theorem arbitrateAhead_cases (s : State) : arbitrateAhead s = s ∨ arbitrateAhead s = arbitrate s := by
  unfold arbitrateAhead
  split
  · exact .inl rfl
  · exact .inr rfl

/-- The claimants ahead of the emitter leave everything but the outlet's packet and the tiles counted. -/
theorem offers_arbitrateAhead {body : List Byte} {rest : List (List Byte)} (h : s.offers body rest) :
    (arbitrateAhead s).offers body rest := by
  unfold State.offers at *
  rcases arbitrateAhead_cases s with e | e <;> rw [e]
  · exact h
  · simpa using h

theorem arbitrateAhead_ring (s : State) : (arbitrateAhead s).ring = s.ring := by
  rcases arbitrateAhead_cases s with e | e <;> simp [e]

theorem arbitrateAhead_sweep_state (s : State) : (arbitrateAhead s).sweep.state = s.sweep.state := by
  rcases arbitrateAhead_cases s with e | e <;> simp [e]

theorem arbitrateAhead_pending (s : State) : (arbitrateAhead s).pending = s.pending := by
  rcases arbitrateAhead_cases s with e | e <;> simp [e]

theorem takeRun_outlet (s : State) : (takeRun s).outlet = s.outlet := by rw [takeRun_eq]

/-- The take of a run costs one credit. -/
theorem takeRun_credits (h : s.ring.sealedQueue ≠ []) : (takeRun s).ring.credits = s.ring.credits - 1 := by
  unfold takeRun
  split
  · exact absurd ‹_› h
  · dsimp only
    split
    · rw [beginStarvation_ring_credits]
    · rfl

/-- The take first, the abort behind it: the run's credit is returned. -/
theorem throws_of_take_first {body : List Byte} {rest : List (List Byte)} (h : s.offers body rest) (hc : dirCode body = 0x12)
    (hps : dirParams body = some []) (hi : s.sweep.state ≠ .idle) (he : s.sweep.state ≠ .ended) (hr : s.ring.run = none)
    (h0 : 0 < s.ring.credits) (h255 : s.ring.credits ≤ 255) (hq : s.ring.sealedQueue ≠ []) (ho : tileOnOutlet s = false)
    (hp : s.pending.head? = some .sweepAbort) :
    ∃ t u, exec .tileRunTake s = .next t ∧ t.pending = s.pending ∧
      exec .sweepAbort { t with pending := t.pending.tail } = .next u ∧ RunThrownAway s.ring.credits s.pending.tail u := by
  have harrives : abortArrives s = true := (abortArrives_iff h.1).2 ⟨hp, ⟨body, rest, h, hc, hps⟩, hi, he⟩
  have htake : exec .tileRunTake s = .next (arbitrateAhead (takeRun s)) := by
    show execTileRunTake s = _
    rw [execTileRunTake, if_pos ⟨harrives, h.1, canTakeRun_iff.2 ⟨hr, h0, hq⟩⟩]
  have hpend : (arbitrateAhead (takeRun s)).pending = s.pending := by rw [arbitrateAhead_pending, takeRun_pending]
  have hoffers : (arbitrateAhead (takeRun s)).offers body rest := offers_arbitrateAhead <| by
    unfold State.offers at *
    simpa using h
  have hstate : (arbitrateAhead (takeRun s)).sweep.state = s.sweep.state := by
    rw [arbitrateAhead_sweep_state, takeRun_sweep]
  have hout : tileOnOutlet (arbitrateAhead (takeRun s)) = false :=
    tileOnOutlet_arbitrateAhead ((tileOnOutlet_congr (takeRun_outlet s)).trans ho)
  obtain ⟨r, hrun, hhead⟩ := takeRun_run_head hq
  have hrun' : (arbitrateAhead (takeRun s)).ring.run = some r := by rw [arbitrateAhead_ring, hrun]
  have hcredits : (arbitrateAhead (takeRun s)).ring.credits + 1 = s.ring.credits := by
    rw [arbitrateAhead_ring, takeRun_credits hq]
    omega
  have hsettle := settleRun_of_head (s := State.taken
    { arbitrateAhead (takeRun s) with pending := (arbitrateAhead (takeRun s)).pending.tail } rest) hrun' hhead hout
  obtain ⟨u, hu, hthrown⟩ := exec_sweepAbort_throws (c := s.ring.credits)
    (s := { arbitrateAhead (takeRun s) with pending := (arbitrateAhead (takeRun s)).pending.tail }) hoffers hc hps
    (hstate ▸ hi) (hstate ▸ he) hout (by rw [hsettle]) (by
      rw [hsettle]
      show min 255 ((arbitrateAhead (takeRun s)).ring.credits + 1) = s.ring.credits
      omega)
  refine ⟨_, u, htake, hpend, hu, ?_⟩
  rwa [hpend] at hthrown

/-- The abort first: the take behind it finds nothing and does not come. -/
theorem throws_of_abort_first {body : List Byte} {rest : List (List Byte)} (h : s.offers body rest) (hc : dirCode body = 0x12)
    (hps : dirParams body = some []) (hi : s.sweep.state ≠ .idle) (he : s.sweep.state ≠ .ended) (hr : s.ring.run = none)
    (ho : tileOnOutlet s = false) : ∃ t, exec .sweepAbort s = .next t ∧ RunThrownAway s.ring.credits s.pending t ∧
      ∀ q, exec .tileRunTake { t with pending := q } = .next { t with pending := q } := by
  have hsettle := settleRun_of_none (s := s.taken rest) hr
  obtain ⟨t, ht, hthrown⟩ := exec_sweepAbort_throws (c := s.ring.credits) h hc hps hi he ho (by rw [hsettle]; exact hr)
    (by rw [hsettle]; rfl)
  refine ⟨t, ht, hthrown, fun q => ?_⟩
  have hno : ¬canTakeRun { t with pending := q } = true := fun hcan => (canTakeRun_iff.1 hcan).2.2 hthrown.sealed
  show execTileRunTake _ = _
  rw [execTileRunTake, if_neg fun hall => hno hall.2.2]
  exact event_disabled fun _ => Bool.not_eq_true _ ▸ hno

theorem step_of_pending {c : Instr} {q : List Instr} (h : s.pending = c :: q) : step s = exec c { s with pending := q } := by
  unfold step
  rw [h]

/-- Settles O19: the take by `takeRun_of_cons`, the tile's ends by `tileEnds_spec`, the two orders of the pair. -/
theorem runTakesTheHeadTileAndOneCredit : Obligations.RunTakesTheHeadTileAndOneCredit := by
  refine ⟨fun s n rest tile hrun hr h0 hq ht => ?_,
    fun s body rest more h hc hps hi he hr h0 h255 hq ho hpair => ?_⟩
  · obtain ⟨hends, hnone⟩ := tileEnds_spec s.sweep.hc tile
    have htake := takeRun_of_cons hq h0
    rw [newRun_of_find ht] at htake
    have hcan : canTakeRun s = true := canTakeRun_iff.2 ⟨hr, h0, by rw [hq]; simp⟩
    refine ⟨(tileEnds s.sweep.hc tile).1, (tileEnds s.sweep.hc tile).2, hends, fun hall => ?_, ?_⟩
    · rw [hnone hall]
      exact ⟨rfl, rfl⟩
    · intro starving u v
      have hv : takeRun s = v := htake
      refine ⟨fun habort => ?_, fun habort => ?_⟩
      · show execTileRunTake s = _
        rw [execTileRunTake, if_neg fun hall => habort ((abortArrives_iff hrun).1 hall.1), event_enabled hrun hcan, hv]
      · show execTileRunTake s = _
        rw [execTileRunTake, if_pos ⟨(abortArrives_iff hrun).2 habort, hrun, hcan⟩, hv]
        rfl
  · rcases hpair with hp | hp
    · obtain ⟨t, u, htake, hpend, habort, hthrown⟩ := throws_of_take_first (s := { s with pending := .sweepAbort :: more }) h hc
        hps hi he hr h0 h255 hq ho rfl
      refine ⟨t, u, (step_of_pending hp).trans htake, (step_of_pending hpend).trans ?_, hthrown.run, hthrown.tiles,
        hthrown.sealed, hthrown.credits, hthrown.outlet, hthrown.state, hthrown.pending⟩
      rw [hpend] at habort
      exact habort
    · obtain ⟨t, habort, hthrown, hstay⟩ := throws_of_abort_first (s := { s with pending := .tileRunTake :: more }) h hc hps hi he
        hr ho
      exact ⟨t, { t with pending := more }, (step_of_pending hp).trans habort,
        (step_of_pending hthrown.pending).trans (hstay more), hthrown.run, hthrown.tiles, hthrown.sealed, hthrown.credits,
        hthrown.outlet, hthrown.state, rfl⟩

end Sys2Proof.Proofs
end

section
/-! PROOF. O27 (R33, R34, R36, R39, R58): what discarding comes to, and the ends of a sweep by SWEEP_END and SWEEP_RELEASE. -/

namespace Sys2Proof.Proofs

open Sys2Proof.Machine

variable {s : State} {i : Fin 3} {f : CapturedFrame} {body : List Byte} {rest : List (List Byte)}

/-! ### A list of slots freed, their frames DISCARDED (R58) -/

theorem discardRecord_eq (f : CapturedFrame) : discardRecord f = f.outcome .discarded := by
  unfold discardRecord CapturedFrame.outcome
  cases f.detection <;> rfl

/-- The FRAME_OUTCOME of a frame that is DISCARDED. -/
def discardedWords (s : State) (f : CapturedFrame) : List Word :=
  outcomeWords (f.outcome .discarded) s.sweep.id s.sweep.coast

/-- The notes that the discarded frames raise, one after another. -/
def discardedNotes (s : State) (fs : List CapturedFrame) (n : NoteUnit) : NoteUnit :=
  fs.foldl (fun n f => raiseNote .frameOutcome (discardedWords s f) n) n

/-- Raising changes the note unit alone. -/
theorem foldl_raise_discarded (s : State) (fs : List CapturedFrame) (u : State) :
    fs.foldl (fun v f => raise .frameOutcome (discardedWords s f) v) u = { u with notes := discardedNotes s fs u.notes } := by
  induction fs generalizing u with
  | nil => rfl
  | cons f fs ih => exact ih _

theorem recordOutcome_discarded : recordOutcome (discardRecord f) (freeSlot i s) =
    { s with
      capture := (freeSlot i s).capture
      counters := { s.counters with framesNotComposited := min 65535 (s.counters.framesNotComposited + 1) }
      notes := discardedNotes s [f] s.notes } := by
  rw [discardRecord_eq]
  rfl

theorem filterMap_slots_congr {t : State} {l : List (Fin 3)}
    (h : ∀ j ∈ l, t.capture.slots.get j = s.capture.slots.get j) :
    l.filterMap t.capture.slots.get = l.filterMap s.capture.slots.get :=
  List.filterMap_congr h

theorem min_min_add (n m : Nat) : min 65535 (min 65535 (n + 1) + m) = min 65535 (n + (m + 1)) := by omega

/-- Slots freed one after another, where the frames that `gone` holds of receive DISCARDED: the counter and the notes that come
of it. -/
theorem foldl_freed {step : State → Fin 3 → State} {gone : CapturedFrame → Bool}
    (hstep : ∀ u i f, u.capture.slots.get i = some f →
      step u i = if gone f then recordOutcome (discardRecord f) (freeSlot i u) else freeSlot i u)
    {l : List (Fin 3)} (hnodup : l.Nodup) (hfull : ∀ i ∈ l, (s.capture.slots.get i).isSome = true)
    (hcount : s.counters.framesNotComposited ≤ 65535) :
    l.foldl step s = { s with
      capture := (l.foldl step s).capture
      counters := { s.counters with framesNotComposited := min 65535 (s.counters.framesNotComposited +
        ((l.filterMap s.capture.slots.get).filter gone).length) }
      notes := discardedNotes s ((l.filterMap s.capture.slots.get).filter gone) s.notes } := by
  induction l generalizing s with
  | nil =>
    simp [discardedNotes, Nat.min_eq_right hcount]
  | cons i l ih =>
    obtain ⟨hi, hl⟩ := List.nodup_cons.1 hnodup
    obtain ⟨f, hf⟩ := Option.isSome_iff_exists.1 (hfull i (by simp))
    have hother (j : Fin 3) (hj : j ∈ l) : (freeSlot i s).capture.slots.get j = s.capture.slots.get j := by
      rw [freeSlot_slots, FrameSlots.get_set, if_neg fun e : j = i => hi (e ▸ hj)]
    have hfull' (j : Fin 3) (hj : j ∈ l) : ((freeSlot i s).capture.slots.get j).isSome = true := by
      rw [hother j hj]
      exact hfull j (by simp [hj])
    rw [List.foldl_cons, List.filterMap_cons, hf, hstep s i f hf]
    by_cases hg : gone f = true
    · rw [if_pos hg, recordOutcome_discarded]
      rw [ih (s := { s with
        capture := (freeSlot i s).capture
        counters := { s.counters with framesNotComposited := min 65535 (s.counters.framesNotComposited + 1) }
        notes := discardedNotes s [f] s.notes }) hl hfull' (by dsimp only; omega)]
      dsimp only
      rw [filterMap_slots_congr (t := freeSlot i s) hother, List.filter_cons_of_pos hg, List.length_cons, min_min_add]
      rfl
    · rw [if_neg hg, ih (s := freeSlot i s) hl hfull' hcount]
      rw [filterMap_slots_congr hother, List.filter_cons_of_neg hg]
      rfl

/-- The frames of the capture order are those of the slots, so they are counted by slot. -/
theorem orderedFrames_length (h : s.captureAgrees) (p : SlotState → Bool) :
    ((s.capture.order.filterMap s.capture.slots.get).filter fun f => p f.state).length =
      (slotNumbers.filter fun i => (slotState s i).any p).length := by
  have hframes : ((s.capture.order.filterMap s.capture.slots.get).filter fun f => p f.state).length =
      (s.capture.order.filter fun i => (slotState s i).any p).length := by
    generalize s.capture.order = l
    induction l with
    | nil => rfl
    | cons i l ih =>
      cases hf : s.capture.slots.get i with
      | none =>
        rw [List.filterMap_cons, hf, ih, List.filter_cons_of_neg]
        simp [slotState, hf]
      | some f =>
        rw [List.filterMap_cons, hf]
        by_cases hp : p f.state = true
        · rw [List.filter_cons_of_pos (p := fun f : CapturedFrame => p f.state) hp, List.length_cons, ih,
            List.filter_cons_of_pos, List.length_cons]
          simp [slotState, hf, hp]
        · rw [List.filter_cons_of_neg (p := fun f : CapturedFrame => p f.state) hp, ih, List.filter_cons_of_neg]
          simp [slotState, hf, hp]
  rw [hframes]
  refine List.Perm.length_eq ((List.perm_ext_iff_of_nodup (h.1.filter _) (List.Nodup.filter _ (by decide))).2 fun i => ?_)
  simp only [List.mem_filter, mem_slotNumbers, true_and, h.2.1, slot_isSome_iff]
  refine and_iff_right_of_imp fun hany hnone => ?_
  rw [hnone] at hany
  cases hany

/-- The frames that discarding frees, in capture order. -/
def capturedFrames (s : State) : List CapturedFrame :=
  (s.capture.order.filterMap s.capture.slots.get).filter fun f => decide (f.state = .filling ∨ f.state = .ready)

theorem captured_of_slot (hf : s.capture.slots.get i = some f) :
    captured s i = decide (f.state = .filling ∨ f.state = .ready) := by
  simp [captured, slotState, hf]

theorem filterMap_captured (s : State) :
    (s.capture.order.filter (captured s)).filterMap s.capture.slots.get = capturedFrames s := by
  unfold capturedFrames
  rw [List.filterMap_filter, List.filter_filterMap]
  refine List.filterMap_congr fun i _ => ?_
  cases hf : s.capture.slots.get i with
  | none => simp
  | some f => simp [captured_of_slot hf, Option.filter]

theorem capturedFrames_filter (s : State) : (capturedFrames s).filter (fun _ => true) = capturedFrames s :=
  List.filter_eq_self.2 fun _ _ => rfl

/-- What discarding leaves as it was, and what it counts and raises. -/
theorem discardCaptured_parts (h : s.captureAgrees) (hcount : s.counters.sound) : discardCaptured s = { s with
    capture := (discardCaptured s).capture
    counters := { s.counters with framesNotComposited := min 65535 (s.counters.framesNotComposited + (capturedFrames s).length) }
    notes := discardedNotes s (capturedFrames s) s.notes } := by
  have hfold := foldl_freed (s := s) (step := discardSlot) (gone := fun _ => true)
    (fun u i f hf => by rw [if_pos rfl, discardSlot, hf]) (h.1.filter (captured s))
    (fun i hi => Option.isSome_iff_ne_none.2 (occupied_of_captured (List.mem_filter.1 hi).2)) hcount.2.2.1
  rw [filterMap_captured, capturedFrames_filter] at hfold
  exact hfold

/-! ### The slots a discarding leaves -/

/-- A slot without a frame that discarding frees. -/
def keptSlot (slot : Option CapturedFrame) : Option CapturedFrame :=
  slot.filter fun f => !decide (f.state = .filling ∨ f.state = .ready)

theorem keptSlot_get (s : State) (i : Fin 3) :
    keptSlot (s.capture.slots.get i) = if captured s i then none else s.capture.slots.get i := by
  cases hf : s.capture.slots.get i with
  | none => simp [keptSlot]
  | some f =>
    rw [captured_of_slot hf]
    by_cases hc : f.state = .filling ∨ f.state = .ready <;> simp [keptSlot, Option.filter, hc]

theorem frameSlots_ext {a b : FrameSlots} (h : ∀ i, a.get i = b.get i) : a = b := by
  obtain ⟨a0, a1, a2⟩ := a
  obtain ⟨b0, b1, b2⟩ := b
  have h0 : a0 = b0 := h 0
  have h1 : a1 = b1 := h 1
  have h2 : a2 = b2 := h 2
  rw [h0, h1, h2]

theorem capture_ext {a b : Capture} (hseq : a.seq = b.seq) (hx : a.sumX = b.sumX) (hy : a.sumY = b.sumY)
    (hbroken : a.broken = b.broken) (hslots : a.slots = b.slots) (horder : a.order = b.order) : a = b := by
  cases a
  cases b
  simp_all

theorem slots_discardCaptured (h : s.captureAgrees) : (discardCaptured s).capture.slots =
    ⟨keptSlot s.capture.slots.s0, keptSlot s.capture.slots.s1, keptSlot s.capture.slots.s2⟩ := by
  refine frameSlots_ext fun i => ?_
  rw [get_discardCaptured h, ← keptSlot_get]
  match i with
  | 0 => rfl
  | 1 => rfl
  | 2 => rfl

theorem capture_discardCaptured (h : s.captureAgrees) : (discardCaptured s).capture = { s.capture with
    slots := ⟨keptSlot s.capture.slots.s0, keptSlot s.capture.slots.s1, keptSlot s.capture.slots.s2⟩
    order := s.capture.order.filter fun i => (keptSlot (s.capture.slots.get i)).isSome } := by
  have horder : (discardCaptured s).capture.order =
      s.capture.order.filter fun i => (keptSlot (s.capture.slots.get i)).isSome := by
    rw [order_discardCaptured h]
    refine List.filter_congr fun i hi => ?_
    rw [keptSlot_get]
    by_cases hc : captured s i = true
    · simp [hc]
    · simp [hc, (h.2.1 i).1 hi]
  exact capture_ext (discardCaptured_capture_seq s) (discardCaptured_capture_sumX s) (discardCaptured_capture_sumY s)
    (discardCaptured_capture_broken s) (slots_discardCaptured h) horder

theorem captureAgrees_discardCaptured (h : s.captureAgrees) : (discardCaptured s).captureAgrees := by
  refine ⟨?_, fun i => ?_, fun i j hi => ?_⟩
  · rw [order_discardCaptured h]
    exact h.1.filter _
  · rw [order_discardCaptured h, get_discardCaptured h, List.mem_filter, h.2.1]
    by_cases hc : captured s i = true <;> simp [hc]
  · rw [slotState_discardCaptured h] at hi
    split at hi
    · cases hi
    · rename_i hc
      simp [captured, hi] at hc

/-- Nothing is left for a second discarding. -/
theorem captured_discardCaptured (h : s.captureAgrees) (i : Fin 3) : captured (discardCaptured s) i = false := by
  unfold captured
  rw [slotState_discardCaptured h]
  by_cases hc : captured s i = true
  · simp [hc]
  · rw [if_neg hc]
    simpa [captured] using hc

/-! ### SWEEP_END (R33) -/

/-- What SWEEP_END makes of a capturing sweep. -/
def sweepEnded (s : State) : State :=
  if s.sweep.state = .armed then changeSweep .ended .finished (discardCaptured s)
  else enterDraining .finished (discardCaptured s)

theorem endSweep_of_capturing (h : capturing s.sweep.state = true) : endSweep body s = sweepDone body (sweepEnded s) := by
  unfold endSweep sweepEnded
  rcases (capturing_iff _).1 h with e | e | e <;> simp [e]

theorem endSweep_of_not (h : s.sweep.state = .idle ∨ s.sweep.state = .draining ∨ s.sweep.state = .ended) :
    endSweep body s = replyTo body .wrongState [] s := by
  unfold endSweep
  rcases h with e | e | e <;> simp [e]

/-- An entry to DRAINING discards the captured frames. -/
theorem get_enterDraining (cause : EndCause) (h : s.captureAgrees) (i : Fin 3) :
    (enterDraining cause s).capture.slots.get i = if captured s i then none else s.capture.slots.get i := by
  have hcap : (enterDraining cause s).capture = (discardCaptured (changeSweep .draining cause s)).capture := by
    simp [enterDraining]
  rw [hcap, get_discardCaptured (s := changeSweep .draining cause s) h]
  rfl

theorem sweepEnded_slots (h : s.captureAgrees) (i : Fin 3) :
    (sweepEnded s).capture.slots.get i = if captured s i then none else s.capture.slots.get i := by
  unfold sweepEnded
  split
  · rw [changeSweep_capture, get_discardCaptured h]
  · rw [get_enterDraining _ (captureAgrees_discardCaptured h), captured_discardCaptured h, get_discardCaptured h]
    rfl

theorem sweepEnded_sweep (s : State) :
    ((s.sweep.state = .armed → (sweepEnded s).sweep.state = .ended) ∧
      (s.sweep.state ≠ .armed → (sweepEnded s).sweep.state = .draining ∨ (sweepEnded s).sweep.state = .ended)) ∧
    (sweepEnded s).sweep.cause = .finished ∧ (sweepEnded s).sweep.id = s.sweep.id ∧
      (sweepEnded s).sweep.params = s.sweep.params ∧ (sweepEnded s).sweep.coast = s.sweep.coast := by
  unfold sweepEnded
  by_cases ha : s.sweep.state = .armed
  · rw [if_pos ha]
    exact ⟨⟨fun _ => rfl, fun hne => absurd ha hne⟩, by simp⟩
  · rw [if_neg ha]
    rcases enterDraining_sweep .finished (discardCaptured s) with e | e <;> rw [e] <;> simp [ha]

theorem sweepEnded_rest (s : State) : (sweepEnded s).reg = s.reg ∧ (sweepEnded s).placement = s.placement ∧
    (sweepEnded s).comp = s.comp ∧ (sweepEnded s).ring.credits = s.ring.credits ∧ (sweepEnded s).ring.run = s.ring.run ∧
    (sweepEnded s).dirs = s.dirs := by
  unfold sweepEnded
  split <;> simp

theorem captured_eq_ite (s : State) (i : Fin 3) (x y : Option CapturedFrame) : (if captured s i = true then x else y) =
    if slotState s i = some .filling ∨ slotState s i = some .ready then x else y := by
  simp only [captured, decide_eq_true_eq]

/-- Parameters other than none at all are a wrong count for a directive that has none. -/
theorem length_ne_of_params_ne (h : dirParams body ≠ some []) (ps : List Nat) (hp : dirParams body = some ps) : ps.length ≠ 0 :=
  fun h0 => h (hp.trans (congrArg some (List.length_eq_zero_iff.1 h0)))

theorem withParams_none {act : List Nat → State → State} (h : dirParams body = some []) :
    withParams 0 body act s = act [] s := withParams_some h rfl

theorem is_of_code {c : Byte} (h : dirCode body = c) : (dirCode body == c) = true := by rw [h, beq_self_eq_true]

theorem exec_sweepEnd (h : s.offers body rest) (hc : dirCode body = 0x11) :
    exec .sweepEnd s = .next (arbitrate (doSweepEnd body (s.taken rest))) :=
  takeDirective_of_offers (is := (· == 0x11)) h (is_of_code hc)

theorem exec_sweepRelease (h : s.offers body rest) (hc : dirCode body = 0x13) :
    exec .sweepRelease s = .next (arbitrate (doSweepRelease body (s.taken rest))) :=
  takeDirective_of_offers (is := (· == 0x13)) h (is_of_code hc)

/-- Settles O27: SWEEP_END and SWEEP_RELEASE by the sweep state, discarding by `discardCaptured_parts`, the drain by
`drainComplete_iff`. -/
theorem sweepEndAndReleaseFollowTheSweepState : Obligations.SweepEndAndReleaseFollowTheSweepState := by
  refine ⟨fun s body rest h hc hcap => ⟨fun hps => ?_, fun hps hst => ?_, fun hps hst => ?_⟩,
    fun s body rest h hc => ⟨fun hps => ?_, fun hps hst => ?_, fun hps hst => ?_⟩, fun s hcap hcount => ?_,
    fun s cause => ⟨rfl, fun hd => testDrain_of_complete (drainComplete_iff.2 hd),
      fun hd => testDrain_of_incomplete fun e => hd (drainComplete_iff.1 e)⟩⟩
  · rw [exec_sweepEnd h hc, doSweepEnd, withParams_format (length_ne_of_params_ne hps)]
  · rw [exec_sweepEnd h hc, doSweepEnd, withParams_none hps, endSweep_of_not (s := s.taken rest) hst]
  · intro u
    obtain ⟨⟨harmed, hrunning⟩, hcause, hid, hparams, hcoast⟩ := sweepEnded_sweep (s.taken rest)
    refine ⟨?_, hcause, hid, hparams, hcoast, harmed, hrunning, fun i => ?_, sweepEnded_rest (s.taken rest)⟩
    · rw [exec_sweepEnd h hc, doSweepEnd, withParams_none hps, endSweep_of_capturing (s := s.taken rest) hst]
      rfl
    · exact (sweepEnded_slots (s := s.taken rest) hcap i).trans (captured_eq_ite s i _ _)
  · rw [exec_sweepRelease h hc, doSweepRelease, withParams_format (length_ne_of_params_ne hps)]
  · rw [exec_sweepRelease h hc, doSweepRelease, withParams_none hps, if_neg (show ¬(s.taken rest).sweep.state = _ from hst)]
  · rw [exec_sweepRelease h hc, doSweepRelease, withParams_none hps, if_pos (show (s.taken rest).sweep.state = _ from hst)]
    rfl
  · intro frees kept freed
    rw [discardCaptured_parts hcap hcount, capture_discardCaptured hcap]
    show _ = (capturedFrames s).foldl (fun v f => raise .frameOutcome (discardedWords s f) v) _
    rw [foldl_raise_discarded]
    rfl

end Sys2Proof.Proofs
end

section
/-! PROOF. O28 (R37, R142, R164): what SWEEP_ABORT throws away, block by block, and the notes it raises. -/

namespace Sys2Proof.Proofs

open Sys2Proof.Machine

variable {s : State} {r : Run} {body : List Byte} {rest : List (List Byte)}

/-! ### The run settled, row by row of R164's table -/

theorem settleRun_of_row {n : Nat} (hr : s.ring.run = some r) (hn : r.next = .row n) (ho : tileOnOutlet s = false) :
    settleRun s = { s with ring := { s.ring with run := some { r with status := .abandoned, next := .tileEnd } } } := by
  simp only [settleRun, hr, hn, ho]

theorem settleRun_of_tileEnd (hr : s.ring.run = some r) (hn : r.next = .tileEnd) (ho : tileOnOutlet s = true) :
    settleRun s = s := by
  simp only [settleRun, hr, hn, ho]

theorem settleRun_of_head_sent (hr : s.ring.run = some r) (hn : r.next = .head) (ho : tileOnOutlet s = true) :
    settleRun s = { s with ring := { s.ring with run := some { r with status := .abandoned } } } := by
  simp only [settleRun, hr, hn, ho]

theorem settleRun_of_row_sent {n : Nat} (hr : s.ring.run = some r) (hn : r.next = .row n) (ho : tileOnOutlet s = true) :
    settleRun s = { s with ring := { s.ring with run := some { r with status := .abandoned } } } := by
  simp only [settleRun, hr, hn, ho]

theorem settleRun_of_tileEnd_waiting (hr : s.ring.run = some r) (hn : r.next = .tileEnd) (ho : tileOnOutlet s = false) :
    settleRun s = { s with ring := { s.ring with run := some { r with status := .abandoned } } } := by
  simp only [settleRun, hr, hn, ho]

/-- The crop stays: the sweep's end reports it. -/
theorem settleRun_ring_crop (s : State) : (settleRun s).ring.crop = s.ring.crop := by
  unfold settleRun
  split
  · rfl
  · split <;> rfl

/-! ### The slots freed (R37, R58) -/

/-- The frames that an abort gives DISCARDED, in capture order: those not PLACED. -/
def abortedFrames (s : State) : List CapturedFrame :=
  (s.capture.order.filterMap s.capture.slots.get).filter fun f => decide (f.state ≠ .placed)

theorem abortSlot_of_slot (u : State) (i : Fin 3) (f : CapturedFrame) (hf : u.capture.slots.get i = some f) :
    abortSlot u i = if decide (f.state ≠ .placed) = true then recordOutcome (discardRecord f) (freeSlot i u) else freeSlot i u := by
  have hstate : slotState u i = some f.state := by rw [slotState, hf]; rfl
  unfold abortSlot
  rw [hstate, discardSlot, hf]
  by_cases hp : f.state = .placed <;> simp [hp]

theorem foldl_abortSlot_parts (h : s.captureAgrees) (hcount : s.counters.sound) : s.capture.order.foldl abortSlot s = { s with
    capture := (s.capture.order.foldl abortSlot s).capture
    counters := { s.counters with framesNotComposited := min 65535 (s.counters.framesNotComposited + (abortedFrames s).length) }
    notes := discardedNotes s (abortedFrames s) s.notes } :=
  foldl_freed abortSlot_of_slot h.1 (fun i hi => (h.2.1 i).1 hi) hcount.2.2.1

theorem foldl_abortSlot_capture (h : s.captureAgrees) : (s.capture.order.foldl abortSlot s).capture =
    { s.capture with slots := ⟨none, none, none⟩, order := [] } := by
  have hslots : (abortSweep s).capture.slots = ⟨none, none, none⟩ := by
    refine frameSlots_ext fun i => ?_
    rw [get_abortSweep h]
    match i with
    | 0 => rfl
    | 1 => rfl
    | 2 => rfl
  have horder := order_abortSweep h
  rw [abortSweep_capture] at hslots horder
  have hkeep : ∀ u i, ((abortSlot u i).capture.seq, (abortSlot u i).capture.sumX, (abortSlot u i).capture.sumY,
      (abortSlot u i).capture.broken) = (u.capture.seq, u.capture.sumX, u.capture.sumY, u.capture.broken) := by
    intro u i
    unfold abortSlot
    split <;> simp
  have hrest := foldl_keeps abortSlot (fun u => (u.capture.seq, u.capture.sumX, u.capture.sumY, u.capture.broken)) hkeep
    s.capture.order s
  simp only [Prod.mk.injEq] at hrest
  obtain ⟨hseq, hx, hy, hbroken⟩ := hrest
  exact capture_ext hseq hx hy hbroken hslots horder

/-- The frames thrown away are counted by their slots. -/
theorem abortedFrames_length (h : s.captureAgrees) : (abortedFrames s).length =
    (slotNumbers.filter fun i => decide (slotState s i ≠ none ∧ slotState s i ≠ some .placed)).length := by
  rw [abortedFrames, orderedFrames_length h fun st => decide (st ≠ .placed)]
  refine congrArg List.length (List.filter_congr fun i _ => ?_)
  cases slotState s i <;> simp

/-! ### The abort, block by block -/

theorem abortSweep_counters (h : s.captureAgrees) (hcount : s.counters.sound) : (abortSweep s).counters = { s.counters with
    framesNotComposited := min 65535 (s.counters.framesNotComposited + (abortedFrames s).length) } := by
  rw [abortSweep, changeSweep_counters, emptyRing_counters]
  exact congrArg State.counters (foldl_abortSlot_parts h hcount)

theorem abortSweep_reg (s : State) : (abortSweep s).reg = ⟨.waiting, none, clearClaims s.reg.anchors, s.reg.header, ⟨0, 0⟩,
    emptyVotes, none⟩ := by
  have hreg : (s.capture.order.foldl abortSlot s).reg = s.reg :=
    foldl_keeps abortSlot (·.reg) (fun u i => by unfold abortSlot; split <;> simp) _ s
  rw [abortSweep, changeSweep_reg, emptyRing_reg]
  show (stopRegistration (s.capture.order.foldl abortSlot s)).reg = _
  rw [stopRegistration, hreg]

/-- The words of SWEEP_STATE read the sweep, E and the crop. -/
theorem sweepStateWords_congr {t u : State} (hs : t.sweep = u.sweep) (hp : t.placement = u.placement)
    (hc : t.ring.crop = u.ring.crop) : sweepStateWords t = sweepStateWords u := by
  unfold sweepStateWords summaryWords
  rw [hs, hp, hc]

theorem abortSweep_notes (h : s.captureAgrees) (hcount : s.counters.sound) : (abortSweep s).notes =
    raiseNote .sweepState (sweepStateWords { s with sweep := { s.sweep with state := .ended, cause := .aborted } })
      (discardedNotes s (abortedFrames s) s.notes) := by
  have hnotes : (s.capture.order.foldl abortSlot s).notes = discardedNotes s (abortedFrames s) s.notes :=
    congrArg State.notes (foldl_abortSlot_parts h hcount)
  have hwords := sweepStateWords_congr (t := { abortSweep s with sweep := { s.sweep with state := .ended, cause := .aborted } })
    (u := { s with sweep := { s.sweep with state := .ended, cause := .aborted } }) rfl (abortSweep_placement s)
    (by
      show (abortSweep s).ring.crop = s.ring.crop
      rw [abortSweep_ring_eq]
      exact settleRun_ring_crop s)
  rw [← hwords, ← hnotes, ← abortSweep_sweep]
  show raiseNote _ _ (emptyRing _).notes = _
  rw [emptyRing_notes]
  rfl

/-- Settles O28: the refusals by the parameters and the sweep state, each block of an abort, and R164's table. -/
theorem sweepAbortThrowsAwayWhatHasNotLeft : Obligations.SweepAbortThrowsAwayWhatHasNotLeft := by
  intro s body rest h hc hcap hcount
  have hexec := exec_sweepAbort_of_offers h hc
  refine ⟨fun hps => ?_, fun hps hst => ?_, fun hps hi he => ?_⟩
  · rw [hexec, doSweepAbort, withParams_format (length_ne_of_params_ne hps)]
  · have hruns : ¬sweepRuns (s.taken rest).sweep.state = true := by
      rw [sweepRuns, decide_eq_true_eq]
      exact fun hne => hst.elim hne.1 hne.2
    rw [hexec, doSweepAbort, withParams_none hps, if_neg hruns]
  · have hsweep := abortSweep_sweep (s.taken rest)
    have hring := abortSweep_ring_eq (s.taken rest)
    have hsettled : (settleRun (s.taken rest)).ring = (settleRun s).ring := settleRun_ring_congr rfl rfl
    rw [hsettled] at hring
    refine ⟨abortSweep (s.taken rest), ?_, hsweep, ?_, abortSweep_comp _, abortSweep_reg _, abortSweep_placement _, ?_, ?_, ?_, ?_,
      ?_, ?_, ?_, ?_⟩
    · rw [hexec, doSweepAbort_of_running (s := s.taken rest) hps hi he, sweepDone, sweepReplyWords, hsweep]
      rfl
    · rw [abortSweep_capture]
      exact foldl_abortSlot_capture (s := s.taken rest) hcap
    · rw [hring]
    · rw [hring]
    · rw [hring]
    · rw [hring]
      exact settleRun_ring_crop s
    · rw [← abortedFrames_length hcap]
      exact abortSweep_counters (s := s.taken rest) hcap hcount
    · intro discarded crop
      rw [abortSweep_notes (s := s.taken rest) hcap hcount]
      show _ = raiseNote _ _ (List.foldl (fun v f => raise .frameOutcome (discardedWords s f) v) s discarded).notes
      rw [foldl_raise_discarded]
      rfl
    · intro hr
      rw [hring, settleRun_of_none hr]
      exact ⟨hr, rfl⟩
    · intro r hr
      rw [hring]
      refine ⟨fun hn ho => ?_, fun hn ho => ?_, fun n hn ho => ?_, fun n hn ho => ?_, fun hn ho => ?_, fun hn ho => ?_⟩
      · rw [settleRun_of_head hr hn ho]
        exact ⟨rfl, rfl⟩
      · rw [settleRun_of_head_sent hr hn ho]
        exact ⟨rfl, rfl⟩
      · rw [settleRun_of_row_sent hr hn ho]
        exact ⟨rfl, rfl⟩
      · rw [settleRun_of_row hr hn ho]
        exact ⟨rfl, rfl⟩
      · rw [settleRun_of_tileEnd_waiting hr hn ho]
        exact ⟨rfl, rfl⟩
      · rw [settleRun_of_tileEnd hr hn ho]
        exact ⟨hr, rfl⟩

end Sys2Proof.Proofs
end

section
/-! PROOF. O9, O10 (R46 to R49, R55): a whole OPEN stored, left without a slot, or of another size. -/

namespace Sys2Proof.Proofs

open Sys2Proof.Machine

variable {s d : State} {body : List Byte} {i : Fin 3}

/-! ### The capture unit's part of an OPEN (R48) -/

theorem exec_openPacket_of_whole (hp : s.power = .running) (hc : canComplete .openKind body s = true) :
    exec (.openPacket body) s = .next (arbitrate (offerForward ⟨.openKind, body⟩
      (arbitrate (captureOpenPacket body (receivePacket body s))))) := by
  rw [exec_openPacket, execOpen, event_enabled hp hc]

theorem countOpen_receivePacket (s : State) (body : List Byte) : countOpen (readOpen body) (receivePacket body s) = s.counted body :=
  rfl

theorem captureOpenPacket_of_capturing (h : capturing s.sweep.state = true) :
    captureOpenPacket body (receivePacket body s) = captureOpen (readOpen body) (damageFilling (s.counted body)) := by
  rw [captureOpenPacket, countOpen_receivePacket]
  exact if_pos h

theorem captureOpenPacket_of_not (h : capturing s.sweep.state = false) :
    captureOpenPacket body (receivePacket body s) = s.counted body := by
  rw [captureOpenPacket, countOpen_receivePacket]
  exact if_neg (show ¬capturing s.sweep.state = true by rw [h]; exact Bool.false_ne_true)

/-- R48 step 2 is what `damageFilling` does. -/
theorem rid_eq (h : s.rid d) : d = damageFilling s := by
  rcases h with ⟨hnone, rfl⟩ | ⟨i, f, hi, hf, rfl⟩
  · exact (damageFilling_of_none hnone).symm
  · exact (damageFilling_of_filling hi hf).symm

theorem captureOpen_of_not (f : OpenFields) (h : capturing s.sweep.state = false) : captureOpen f s = s := by
  rw [captureOpen, if_neg (by rw [h]; exact Bool.false_ne_true)]

theorem captureOpen_of_free {f : OpenFields} (h : capturing s.sweep.state = true)
    (hsize : f.w = (workingMap s.tables).wFor ∧ f.h = (workingMap s.tables).hFor) (hi : freeSlotNumber s = some i) :
    captureOpen f s = takeSlot i f s := by
  rw [captureOpen, if_pos h, if_pos hsize, hi]

theorem captureOpen_of_full {f : OpenFields} (h : capturing s.sweep.state = true)
    (hsize : f.w = (workingMap s.tables).wFor ∧ f.h = (workingMap s.tables).hFor) (hn : freeSlotNumber s = none) :
    captureOpen f s = recordOutcome { seq := s.capture.seq, outcome := .notCaptured } s := by
  rw [captureOpen, if_pos h, if_pos hsize, hn]

theorem captureOpen_of_other_size {f : OpenFields} (h : capturing s.sweep.state = true)
    (hsize : ¬(f.w = (workingMap s.tables).wFor ∧ f.h = (workingMap s.tables).hFor)) : captureOpen f s = geometryOutcome s := by
  rw [captureOpen, if_pos h, if_neg hsize]

theorem freeSlotNumber_eq {j : Fin 3} (hj : s.capture.slots.get j = none) (hlow : ∀ k, k < j → s.capture.slots.get k ≠ none) :
    freeSlotNumber s = some j :=
  lowestIn_eq (slotState_eq_none_iff.2 hj) fun k hk => mt slotState_eq_none_iff.1 (hlow k hk)

theorem freeSlotNumber_eq_none (h : ∀ i, s.capture.slots.get i ≠ none) : freeSlotNumber s = none := by
  cases hi : freeSlotNumber s with
  | none => rfl
  | some i => exact absurd (slotState_eq_none_iff.1 (lowestIn_spec hi).1) (h i)

theorem workingMap_of_some {t : Tables} {m : ColumnMap} (h : t.columnMap = some m) : workingMap t = m := by
  rw [workingMap, h]
  rfl

/-- R46: the record of a frame, its direction and roll taken apart. -/
theorem newRecord_eq (f : OpenFields) (s : State) : newRecord f s =
    ⟨s.capture.seq, if s.sweep.params.direction = .leftward then -s.capture.sumX else s.capture.sumX, s.capture.sumY,
      s.capture.broken, f.exposure,
      if f.hinted = true then (if s.sweep.params.direction = .leftward then -f.roll else f.roll) else s.placement.roll,
      f.w, f.h, 0, 0, false⟩ := by
  unfold newRecord recordedRoll
  cases s.sweep.params.direction <;> rfl

/-- Settles O9: the four steps of R48 where a slot is FREE. -/
theorem openFillsTheLowestFreeSlot : Obligations.OpenFillsTheLowestFreeSlot := by
  intro s body hp hc forwarded u
  have hexec := exec_openPacket_of_whole hp hc
  refine ⟨fun hst => ?_, fun hst d hrid => ?_⟩
  · show exec _ s = _
    rw [hexec, captureOpenPacket_of_not hst]
  · rw [captureOpenPacket_of_capturing hst, ← rid_eq hrid] at hexec
    refine ⟨fun hd => ?_, fun j m hd hm hw hh hj hlow => ?_⟩
    · show exec _ s = _
      rw [hexec, captureOpen_of_not _ hd]
    · intro c roll record
      have hd' := rid_eq hrid
      have htables : workingMap d.tables = m := by
        rw [hd', damageFilling_tables]
        exact workingMap_of_some hm
      have hrecord : newRecord (readOpen body) d = record := by
        rw [newRecord_eq, hd', damageFilling_capture_seq, damageFilling_capture_sumX, damageFilling_capture_sumY,
          damageFilling_capture_broken, damageFilling_sweep_params, damageFilling_placement]
        show FrameRecord.mk _ _ _ _ _ _ (halfAt body 0).toNat (halfAt body 2).toNat _ _ _ = _
        rw [hw, hh]
        rfl
      show exec _ s = _
      rw [hexec, captureOpen_of_free hd (by rw [htables]; exact ⟨hw, hh⟩) (freeSlotNumber_eq hj hlow), takeSlot, hrecord]
      rfl

/-! ### An OPEN that is not stored (R49) -/

theorem captureAgrees_sweepClosed : SweepClosed State.captureAgrees := by
  intro s t part h
  cases part with
  | freeSlot i => exact captureAgrees_freeSlot i h
  | examineTiles => exact captureAgrees_congr (by simp) (slotState_congr (by simp)) h
  | _ => exact h

theorem captureAgrees_damageFilling (h : s.captureAgrees) : (damageFilling s).captureAgrees := by
  unfold damageFilling
  split
  · exact h
  · unfold damageFrame
    split
    · exact h
    · exact captureAgrees_sweepClosed.decideOutcome _ (captureAgrees_freeSlot _ h)

/-- An outcome that is not a composited one is counted and reported, and changes nothing else. -/
theorem recordOutcome_of_lost {r : OutcomeRecord} (hr : countsAsComposited r.outcome = false) : recordOutcome r s =
    raise .frameOutcome (outcomeWords r s.sweep.id s.sweep.coast) { s with counters := { s.counters with
      framesNotComposited := min 65535 (s.counters.framesNotComposited + 1) } } := by
  unfold recordOutcome
  rw [hr]
  rfl

/-- With no slot FILLING or READY there is nothing to discard. -/
theorem discardCaptured_of_none (h : ∀ i, captured s i = false) : discardCaptured s = s := by
  rw [discardCaptured_eq, List.filter_eq_nil_iff.2 fun i _ => by rw [h i]; exact Bool.false_ne_true]
  rfl

/-- An entry to DRAINING that finds the slots discarded already. -/
theorem enterDraining_discarded (cause : EndCause) (h : s.captureAgrees) : enterDraining cause (discardCaptured s) =
    testDrain (examineTiles (changeSweep .draining cause (discardCaptured s))) := by
  rw [enterDraining, discardCaptured_of_none (s := changeSweep .draining cause (discardCaptured s)) (captured_discardCaptured h)]

/-- With no slot FILLING, discarding frees the READY ones. -/
theorem captured_of_noneFilling (h : NoneFilling s) (i : Fin 3) : captured s i = decide (slotState s i = some .ready) := by
  have hi : slotState s i ≠ some .filling := h i
  simp [captured, hi]

theorem capturedFrames_length (h : s.captureAgrees) (hn : NoneFilling s) :
    (capturedFrames s).length = (slotNumbers.filter fun i => decide (slotState s i = some .ready)).length := by
  rw [capturedFrames, orderedFrames_length h fun st => decide (st = .filling ∨ st = .ready)]
  refine congrArg List.length (List.filter_congr fun i _ => ?_)
  have hi : slotState s i ≠ some .filling := hn i
  cases hst : slotState s i with
  | none => simp
  | some st =>
    rw [hst] at hi
    simp_all

/-- R49: the sweep left by a frame of another size, once its outcome is told. -/
def geometryEnded (s : State) : State :=
  if s.sweep.state = .armed then changeSweep .ended .geometry (discardCaptured s)
  else enterDraining .geometry (discardCaptured s)

theorem geometryEnded_capture (h : s.captureAgrees) : (geometryEnded s).capture = (discardCaptured s).capture := by
  unfold geometryEnded
  split
  · rfl
  · rw [enterDraining_discarded _ h]
    simp

theorem geometryEnded_counters (h : s.captureAgrees) : (geometryEnded s).counters = (discardCaptured s).counters := by
  unfold geometryEnded
  split
  · rfl
  · rw [enterDraining_discarded _ h]
    simp

theorem geometryEnded_sweep (s : State) : (geometryEnded s).sweep.cause = .geometry ∧
    (geometryEnded s).sweep.coast = s.sweep.coast ∧ (s.sweep.state = .armed → (geometryEnded s).sweep.state = .ended) ∧
    (s.sweep.state ≠ .armed → (geometryEnded s).sweep.state = .draining ∨ (geometryEnded s).sweep.state = .ended) := by
  unfold geometryEnded
  by_cases ha : s.sweep.state = .armed
  · simp [ha]
  · rw [if_neg ha]
    rcases enterDraining_sweep .geometry (discardCaptured s) with e | e <;> rw [e] <;> simp [ha]

theorem geometryEnded_rest (s : State) : (geometryEnded s).reg = s.reg ∧ (geometryEnded s).placement = s.placement ∧
    (geometryEnded s).comp = s.comp := by
  unfold geometryEnded
  split <;> simp

theorem offerForward_framesNotComposited (p : Packet) (s : State) :
    (offerForward p s).counters.framesNotComposited = s.counters.framesNotComposited := by
  unfold offerForward
  split <;> rfl

/-- Settles O10: the frame told and, for another size, the READY frames discarded and the sweep ended. -/
theorem openThatCannotBeStoredGetsItsOutcome : Obligations.OpenThatCannotBeStoredGetsItsOutcome := by
  intro s d body hp hc hst hcap hrid hd forwarded told right
  have hexec := exec_openPacket_of_whole hp hc
  rw [captureOpenPacket_of_capturing hst, ← rid_eq hrid] at hexec
  have hd' := rid_eq hrid
  have hseq : d.capture.seq = s.capture.seq + 1 := by
    rw [hd', damageFilling_capture_seq]
    rfl
  have htables : d.tables = s.tables := by
    rw [hd', damageFilling_tables]
    rfl
  have hagree : d.captureAgrees := hd' ▸ captureAgrees_damageFilling (s := s.counted body) hcap
  have hnone : NoneFilling d := hd' ▸ noneFilling_damageFilling (s := s.counted body) hcap
  have htold (o : FrameOutcome) (ho : countsAsComposited o = false) :
      recordOutcome { seq := d.capture.seq, outcome := o } d = told o := by
    rw [recordOutcome_of_lost ho, hseq]
  refine ⟨fun hsize hfull => ?_, fun hsize => ?_⟩
  · show exec _ s = _
    rw [hexec, captureOpen_of_full hd (by rw [htables]; exact hsize) (freeSlotNumber_eq_none hfull), htold .notCaptured rfl]
  · have hgeometry : captureOpen (readOpen body) d = geometryEnded (told .geometry) := by
      rw [captureOpen_of_other_size hd (by rw [htables]; exact hsize), geometryOutcome, htold .geometry rfl]
      rfl
    rw [hgeometry] at hexec
    have hagree' : (told .geometry).captureAgrees := hagree
    obtain ⟨hcause, hcoast, harmed, hrunning⟩ := geometryEnded_sweep (told .geometry)
    obtain ⟨hreg, hplace, hcomp⟩ := geometryEnded_rest (told .geometry)
    refine ⟨fun ha => ?_, fun ha => ?_, _, hexec, ?_, ?_, fun ha => ?_, fun ha => ?_, fun i => ?_, fun i hi => ?_, fun hcount => ?_,
      ?_, ?_, ?_⟩
    · show exec _ s = _
      rw [hexec, geometryEnded, if_pos (show (told .geometry).sweep.state = .armed from ha)]
    · show exec _ s = _
      rw [hexec, geometryEnded, if_neg (show ¬(told .geometry).sweep.state = .armed from ha)]
    · simpa using hcause
    · have hsame : (told .geometry).sweep.coast = d.sweep.coast := rfl
      simpa using hcoast.trans hsame
    · simpa using harmed ha
    · simpa using hrunning ha
    · have hleft := captured_discardCaptured hagree' i
      rw [captured, decide_eq_false_iff_not, not_or] at hleft
      rwa [slotState_congr (s := discardCaptured (told .geometry)) (by
        rw [arbitrate_capture, offerForward_capture, arbitrate_capture, geometryEnded_capture hagree'])]
    · rw [arbitrate_capture, offerForward_capture, arbitrate_capture, geometryEnded_capture hagree', get_discardCaptured hagree']
      have hkept : ¬captured (told .geometry) i = true := by
        rw [captured_of_noneFilling (s := told .geometry) hnone, decide_eq_true_eq]
        exact hi
      rw [if_neg hkept]
      rfl
    · have hsound : (told .geometry).counters.sound := by
        unfold Counters.sound at *
        exact ⟨hcount.1, hcount.2.1, Nat.min_le_left .., hcount.2.2.2⟩
      rw [arbitrate_counters, offerForward_framesNotComposited, arbitrate_counters, geometryEnded_counters hagree',
        discardCaptured_parts hagree' hsound]
      dsimp only
      rw [capturedFrames_length hagree' hnone]
      show min 65535 (min 65535 (d.counters.framesNotComposited + 1) + _) = _
      rw [min_min_add, Nat.add_assoc, Nat.add_comm 1]
      rfl
    · rw [arbitrate_reg, offerForward_reg, arbitrate_reg, hreg]
      show d.reg = s.reg
      rw [hd', damageFilling_reg]
      rfl
    · rw [arbitrate_placement, offerForward_placement, arbitrate_placement, hplace]
      show d.placement = s.placement
      rw [hd', damageFilling_placement]
      rfl
    · rw [arbitrate_comp, offerForward_comp, arbitrate_comp, hcomp]
      show d.comp = s.comp
      rw [hd', damageFilling_comp]
      rfl

end Sys2Proof.Proofs
end

section
/-! PROOF. O12, O14 (R51 to R55): the rows made up for a gap, before a LINE and at the SHUT. -/

namespace Sys2Proof.Proofs

open Sys2Proof.Machine

variable {s : State} {f : CapturedFrame} {i : Fin 3} {body : List Byte}

/-! ### Rows offered to the detector one after another (R61) -/

theorem offered_append (tau w h : Nat) {rows : List (List Byte)} {row : List Byte} {start : Nat} (hs : start ≤ rows.length)
    (context : Detection) : offered tau w h (rows ++ [row]) start context =
      offerRow tau w h (rows ++ [row]) (offered tau w h rows start context) := by
  have hcount : (rows ++ [row]).length - start = rows.length - start + 1 := by simp; omega
  have hall : (rows ++ [row]).take (start + (rows.length - start) + 1) = rows ++ [row] :=
    List.take_of_length_le (by simp; omega)
  rw [offered, hcount, List.range_succ, List.foldl_append, List.foldl_cons, List.foldl_nil, hall]
  refine congrArg (offerRow tau w h (rows ++ [row])) (List.foldl_ext _ _ _ fun d k hk => ?_)
  have hk : k < rows.length - start := List.mem_range.1 hk
  rw [List.take_append_of_le_length (by omega)]

/-- The rows made up for a gap, all at once. -/
theorem makeUpRows_eq (tau n : Nat) (f : CapturedFrame) : makeUpRows tau n f = { f with
    luma := f.luma ++ List.replicate n (f.luma.getLastD (List.replicate f.record.w 0))
    chroma := f.chroma ++ List.replicate ((f.record.nextLine + n + 1) / 2 - (f.record.nextLine + 1) / 2)
      (f.chroma.getLastD (List.replicate (f.record.w / 2) (128, 128)))
    record := { f.record with nextLine := f.record.nextLine + n }
    detection := offered tau f.record.w f.record.h
      (f.luma ++ List.replicate n (f.luma.getLastD (List.replicate f.record.w 0))) f.luma.length f.detection } := by
  obtain ⟨hstate, hrecord⟩ := makeUpRows_record tau n f
  have hdetection := makeUpRows_detection tau n f
  rw [makeUpRows_luma] at hdetection
  rw [← makeUpRows_luma tau, ← makeUpRows_chroma tau, ← hrecord, ← hstate]
  rw [← makeUpRows_luma tau] at hdetection
  have hcount : (makeUpRows tau n f).luma.length - f.luma.length = n := by simp [makeUpRows_luma]
  rw [offered, hcount, ← hdetection]

/-! ### A LINE behind a gap (R51, R52) -/

/-- A gap too large damages the frame. -/
theorem captureLine_of_large_gap (hn : f.record.nextLine < lineNumber body) (hh : lineNumber body < f.record.h)
    (hm : 8 < f.record.missing + (lineNumber body - f.record.nextLine)) : captureLine i f body s = damageFrame i s := by
  have htaken : ¬(f.record.h ≤ lineNumber body ∨ lineNumber body < f.record.nextLine) := by omega
  rw [captureLine, if_neg htaken, if_pos hm]

theorem damageFrame_of_slot (hf : s.capture.slots.get i = some f) : damageFrame i s = s.damaged i f := by
  simp only [damageFrame, hf]
  rfl

theorem captureLine_of_gap (hn : f.record.nextLine < lineNumber body) (hh : lineNumber body < f.record.h)
    (hm : f.record.missing + (lineNumber body - f.record.nextLine) ≤ 8) : captureLine i f body s =
      addLinesRepaired (lineNumber body - f.record.nextLine + (needsRepair f.record.w body).toNat)
        (setSlot i (storeLine s.sweep.params.tau s.sweep.params.direction body
          (countMissing (lineNumber body - f.record.nextLine)
            (makeUpRows s.sweep.params.tau (lineNumber body - f.record.nextLine) f))) s) := by
  have htaken : ¬(f.record.h ≤ lineNumber body ∨ lineNumber body < f.record.nextLine) := by omega
  rw [captureLine, if_neg htaken, if_neg (Nat.not_lt.2 hm), lineNeedsRepair_eq_needsRepair]

/-- The frame once the gap's rows and the line itself are stored. -/
theorem storeLine_of_gap (tau : Nat) (d : Direction) (hn : f.record.nextLine < lineNumber body) :
    let n := lineNumber body
    let gap := n - f.record.nextLine
    let w := f.record.w
    let row := inSceneOrder d (fitRun w 0 (lumaRun body))
    let luma := f.luma ++ List.replicate gap (f.luma.getLastD (List.replicate w 0)) ++ [row]
    storeLine tau d body (countMissing gap (makeUpRows tau gap f)) = { f with
      luma := luma
      chroma := f.chroma ++ List.replicate ((n + 1) / 2 - (f.record.nextLine + 1) / 2)
          (f.chroma.getLastD (List.replicate (w / 2) (128, 128))) ++
        (if n % 2 = 0 then [inSceneOrder d (fitRun (w / 2) (128, 128) (chromaPairs (chromaRun body)))] else [])
      record := { f.record with nextLine := n + 1, missing := f.record.missing + gap, repaired := true }
      detection := offered tau w f.record.h luma f.luma.length f.detection } := by
  intro n gap w row luma
  have hgap : gap ≠ 0 := by omega
  have hline : f.record.nextLine + gap = n := by omega
  have hdetection := offered_append tau w f.record.h (row := row)
    (rows := f.luma ++ List.replicate gap (f.luma.getLastD (List.replicate w 0))) (start := f.luma.length) (by simp) f.detection
  rw [countMissing, if_neg hgap, makeUpRows_eq]
  show storeRow tau _ _ _ = _
  rw [hdetection]
  simp only [storeRow, offerStored, hline, Bool.true_or]
  by_cases heven : n % 2 = 0
  · simp only [heven, if_true]
    rfl
  · simp only [heven, if_false, List.append_nil]
    rfl

/-- R51, R53: no part of a decided outcome counts a line as repaired. -/
theorem linesRepaired_sweepClosed (n : Nat) : SweepClosed fun s => s.counters.linesRepaired = n := by
  intro s t part h
  cases part with
  | examineTiles => simpa using h
  | recordOutcome r =>
    rw [← h]
    unfold recordOutcome
    dsimp only
    split <;> rfl
  | _ => exact h

theorem linesRepaired_damaged (s : State) (i : Fin 3) (f : CapturedFrame) :
    (s.damaged i f).counters.linesRepaired = s.counters.linesRepaired :=
  (linesRepaired_sweepClosed s.counters.linesRepaired).decideOutcome _ (s := freeSlot i s) rfl

theorem slot_offerForward (p : Packet) (s : State) : (offerForward p (receivePacket body s)).capture = s.capture := by simp

/-- Settles O12: the line behind its gap by `storeLine_of_gap`, the damaged frame by `captureLine_of_large_gap`. -/
theorem gapIsMadeUpOrDamagesTheFrame : Obligations.GapIsMadeUpOrDamagesTheFrame := by
  intro s body i f hp hc hi hf hn hh n gap w u
  have hcapture : u.capture = s.capture := slot_offerForward ..
  have hsweep : u.sweep = s.sweep := by simp [u]
  have hrepaired : u.counters.linesRepaired = s.counters.linesRepaired := by simp [u]
  have hf' : u.capture.slots.get i = some f := by rw [hcapture, hf]
  have hexec : exec (.linePacket body) s = .next (arbitrate (captureLine i f body u)) := by
    rw [exec_linePacket_of_canComplete hp hc,
      captureLinePacket_of_filling (s := u) ((fillingSlot_congr hcapture).trans hi) hf']
  refine ⟨fun hm => ⟨_, _, lumaRowOf_fitRun s.sweep.params.direction body w, chromaRowOf_fitRun s.sweep.params.direction body w, ?_⟩,
    fun hm => ?_⟩
  · intro luma
    rw [hexec, captureLine_of_gap hn hh hm, storeLine_of_gap _ _ hn]
    simp only [addLinesRepaired, setSlot, saturate16, hcapture, hsweep, hrepaired, Nat.add_assoc]
    rfl
  · rw [captureLine_of_large_gap hn hh hm, damageFrame_of_slot hf'] at hexec
    obtain ⟨hslot, hout⟩ := slotGone_damaged i f u
    exact ⟨hexec, _, hexec, by simpa using hslot, by simpa using hout,
      by rw [arbitrate_counters, linesRepaired_damaged, hrepaired]⟩

/-! ### The keypoint list of a finished context (R72) -/

/-- The survivors of the cells from number n on, cell by cell, each cell's in the order of R72. -/
def placedFrom : Nat → List (List Candidate) → List (Nat × Candidate)
  | _, [] => []
  | n, held :: cells => ((held.insertionSort fun a b => listsBefore a b).map fun c => (n, c)) ++ placedFrom (n + 1) cells

theorem placedFrom_eq (n : Nat) (cells : List (List Candidate)) : placedFrom n cells =
    (cells.mapIdx fun cell held => (held.insertionSort fun a b => listsBefore a b).map fun c => (n + cell, c)).flatten := by
  induction cells generalizing n with
  | nil => rfl
  | cons held cells ih =>
    rw [placedFrom, ih, List.mapIdx_cons, List.flatten_cons, Nat.add_zero]
    refine congrArg _ (congrArg List.flatten (congrArg (fun g => List.mapIdx g cells) ?_))
    funext cell held
    rw [Nat.add_assoc, Nat.add_comm 1]

/-- A keypoint's cell and the candidate it was. -/
def Keypoint.place (k : Keypoint) : Nat × Candidate :=
  (k.cell, ⟨k.x, k.y, k.polarity, k.strength, k.ring, k.chord⟩)

theorem assembleKeypoints_eq (cells : List (List Candidate)) : assembleKeypoints cells =
    (placedFrom 0 cells).mapIdx fun i p =>
      ⟨i, p.1, p.2.x, p.2.y, p.2.polarity, p.2.strength, p.2.ring, p.2.chord, none⟩ := by
  rw [placedFrom_eq, assembleKeypoints]
  simp only [Nat.zero_add]

theorem map_place_assembleKeypoints (cells : List (List Candidate)) :
    (assembleKeypoints cells).map Keypoint.place = placedFrom 0 cells := by
  rw [assembleKeypoints_eq]
  exact List.ext_getElem (by simp) fun n h1 h2 => by simp [Keypoint.place]

theorem listsBefore_iff (a b : Candidate) : listsBefore a b = true ↔ b.strength < a.strength ∨
    (a.strength = b.strength ∧ (a.y < b.y ∨ (a.y = b.y ∧ a.x ≤ b.x))) := by
  simp only [listsBefore, rasterBefore, Bool.or_eq_true, Bool.and_eq_true, decide_eq_true_eq, Bool.not_eq_true',
    decide_eq_false_iff_not]
  refine or_congr_right (and_congr_right fun _ => ?_)
  omega

/-- R72's order is total and transitive, so sorting by it puts a cell's survivors in it. -/
theorem pairwise_sorted (held : List Candidate) :
    (held.insertionSort fun a b => listsBefore a b).Pairwise fun a b => listsBefore a b = true := by
  have : Std.Total fun a b : Candidate => listsBefore a b = true := ⟨fun a b => by
    simp only [listsBefore_iff]
    omega⟩
  have : IsTrans Candidate fun a b => listsBefore a b = true := ⟨fun a b c => by
    simp only [listsBefore_iff]
    omega⟩
  exact List.pairwise_insertionSort _ held

/-- R72: cell ascending, then the order within the cell. -/
def placedBefore (p q : Nat × Candidate) : Prop := p.1 < q.1 ∨ (p.1 = q.1 ∧ listsBefore p.2 q.2 = true)

theorem le_of_mem_placedFrom {n : Nat} {cells : List (List Candidate)} {p : Nat × Candidate} (h : p ∈ placedFrom n cells) :
    n ≤ p.1 := by
  induction cells generalizing n with
  | nil => cases h
  | cons held cells ih =>
    rcases List.mem_append.1 h with hin | hin
    · obtain ⟨c, -, rfl⟩ := List.mem_map.1 hin
      exact Nat.le_refl n
    · exact Nat.le_of_succ_le (ih hin)

theorem pairwise_placedFrom (n : Nat) (cells : List (List Candidate)) : (placedFrom n cells).Pairwise placedBefore := by
  induction cells generalizing n with
  | nil => exact List.Pairwise.nil
  | cons held cells ih =>
    refine List.pairwise_append.2 ⟨?_, ih (n + 1), fun p hp q hq => ?_⟩
    · rw [List.pairwise_map]
      exact (pairwise_sorted held).imp fun h => .inr ⟨rfl, h⟩
    · obtain ⟨c, -, rfl⟩ := List.mem_map.1 hp
      exact .inl (le_of_mem_placedFrom hq)

/-- The survivors placed for a cell are those it held. -/
theorem filter_placedFrom (n c : Nat) (cells : List (List Candidate)) :
    (((placedFrom n cells).filter fun p => decide (p.1 = n + c)).map (·.2)).Perm (cells.getD c []) := by
  induction cells generalizing n c with
  | nil => exact List.Perm.nil
  | cons held cells ih =>
    rw [placedFrom, List.filter_append, List.map_append]
    cases c with
    | zero =>
      have hrest : (placedFrom (n + 1) cells).filter (fun p => decide (p.1 = n + 0)) = [] :=
        List.filter_eq_nil_iff.2 fun p hp => by
          have := le_of_mem_placedFrom hp
          simp only [decide_eq_true_eq]
          omega
      rw [hrest, List.map_nil, List.append_nil, List.filter_eq_self.2 (by simp), List.map_map]
      show (List.map id _).Perm held
      rw [List.map_id]
      exact List.perm_insertionSort _ held
    | succ c =>
      have hheld : ((held.insertionSort fun a b => listsBefore a b).map fun c => (n, c)).filter
          (fun p => decide (p.1 = n + (c + 1))) = [] := List.filter_eq_nil_iff.2 (by simp)
      rw [hheld, List.map_nil, List.nil_append, List.getD_cons_succ, show n + (c + 1) = n + 1 + c by omega]
      exact ih (n + 1) c

/-! ### The SHUT (R53) -/

theorem captureShut_of_large_gap (hm : 8 < f.record.missing + (f.record.h - f.record.nextLine)) :
    captureShut i f s = damageFrame i s := by
  rw [captureShut, if_pos hm]

theorem captureShut_of_gap (hm : f.record.missing + (f.record.h - f.record.nextLine) ≤ 8) : captureShut i f s =
    addLinesRepaired (f.record.h - f.record.nextLine) (setSlot i
      { countMissing (f.record.h - f.record.nextLine) (makeUpRows s.sweep.params.tau (f.record.h - f.record.nextLine) f) with
        state := .ready
        detection := finishDetection (countMissing (f.record.h - f.record.nextLine)
          (makeUpRows s.sweep.params.tau (f.record.h - f.record.nextLine) f)).detection } s) := by
  rw [captureShut, if_neg (Nat.not_lt.2 hm)]

theorem countMissing_eq (n : Nat) (f : CapturedFrame) : countMissing n f =
    { f with record := { f.record with
      missing := f.record.missing + n, repaired := f.record.repaired || decide (n ≠ 0) } } := by
  unfold countMissing
  split
  · simp [*]
  · simp [*]

/-- Settles O14: the bottom rows by `makeUpRows_eq`, the list by the facts on `placedFrom`. -/
theorem shutMakesTheSlotReadyOrDamaged : Obligations.ShutMakesTheSlotReadyOrDamaged := by
  refine ⟨fun s body i f hp hc hi hf => ?_, fun rows pend cells overflow => ?_⟩
  · intro gap w u luma
    have hcapture : u.capture = s.capture := slot_offerForward ..
    have hsweep : u.sweep = s.sweep := by simp [u]
    have hrepaired : u.counters.linesRepaired = s.counters.linesRepaired := by simp [u]
    have hf' : u.capture.slots.get i = some f := by rw [hcapture, hf]
    have hexec : exec (.shutPacket body) s = .next (arbitrate (captureShut i f u)) := by
      have hi' : fillingSlot u = some i := (fillingSlot_congr hcapture).trans hi
      have hslot : captureShutPacket u = captureShut i f u := by simp only [captureShutPacket, hi', hf']
      rw [exec_shutPacket_of_canComplete hp hc, hslot]
    refine ⟨fun hm => ?_, fun hm => ?_⟩
    · rw [hexec, captureShut_of_gap hm, countMissing_eq, makeUpRows_eq, addLinesRepaired, setSlot, hcapture, hrepaired, saturate16,
        hsweep]
    · rw [captureShut_of_large_gap hm, damageFrame_of_slot hf'] at hexec
      obtain ⟨hslot, hout⟩ := slotGone_damaged i f u
      exact ⟨hexec, _, hexec, by simpa using hslot, by simpa using hout,
        by rw [arbitrate_counters, linesRepaired_damaged, hrepaired]⟩
  · refine ⟨assembleKeypoints cells, rfl, fun n k hk => ?_, ?_, fun c => ?_⟩
    · rw [assembleKeypoints_eq, List.getElem?_mapIdx] at hk
      obtain ⟨p, -, rfl⟩ := Option.map_eq_some_iff.1 hk
      exact ⟨rfl, rfl⟩
    · have hplaced := pairwise_placedFrom 0 cells
      rw [← map_place_assembleKeypoints, List.pairwise_map] at hplaced
      refine hplaced.imp fun {a b} hab => hab.imp_right fun hcell => ⟨hcell.1, ?_⟩
      exact (listsBefore_iff _ _).1 hcell.2
    · have hcell := filter_placedFrom 0 c cells
      rw [← map_place_assembleKeypoints, Nat.zero_add, List.filter_map, List.map_map] at hcell
      exact hcell

end Sys2Proof.Proofs
end

section
/-! PROOF. O36 (R180, R194) and O32 (R189): what validation finds, and the image a write leaves for a recall. -/

namespace Sys2Proof.Proofs

open Sys2Proof.Machine

variable {s : State} {body : List Byte} {rest : List (List Byte)} {i : Fin 4}

/-! ### The lowest entry that fails (R180) -/

/-- Where no entry is found bad, each passes against the one before it. -/
theorem ok_of_firstBad_none {α : Type} {ok : Option α → α → Bool} {l : List α} {prev : Option α} {k : Nat}
    (h : firstBad ok prev k l = none) : ∀ n e, l[n]? = some e → ok (entryBefore prev l n) e = true := by
  induction l generalizing prev k with
  | nil => intro n e he; simp at he
  | cons x l ih =>
    rw [firstBad] at h
    split at h
    · intro n e he
      cases n with
      | zero =>
        cases he
        assumption
      | succ n =>
        have hrest := ih h n e he
        cases n <;> simpa [entryBefore] using hrest
    · cases h

/-- The entry before number n satisfies `P`, where there is one. -/
theorem entryBefore_forall {α : Type} (l : List α) (n : Nat) (P : α → Prop) :
    (∀ p, entryBefore none l n = some p → P p) ↔ ∀ p, 1 ≤ n → l[n - 1]? = some p → P p := by
  unfold entryBefore
  split
  · simp [*]
  · exact ⟨fun h p _ => h p, fun h p => h p (by omega)⟩

/-- What validation asks of a COLUMN_MAP's header (R180). -/
def MapHeaderLegal (m : ColumnMap) : Prop :=
  640 ≤ m.wFor ∧ m.wFor ≤ 1920 ∧ m.wFor % 32 = 0 ∧ 360 ≤ m.hFor ∧ m.hFor ≤ 1088 ∧ m.hFor % 8 = 0 ∧
    m.yc ≤ m.hFor - 1 ∧ 64 ≤ m.k ∧ m.k ≤ m.wFor

/-- What it asks of entry n, where there is one (R180). -/
def MapEntryLegal (m : ColumnMap) (n : Nat) : Prop :=
  ∀ e, m.entries[n]? = some e → e.xs ≤ 4 * (m.wFor - 1) ∧
    (∀ p, 1 ≤ n → m.entries[n - 1]? = some p → p.xs < e.xs) ∧ 2048 ≤ e.s ∧ e.s ≤ 4096 ∧ 4096 ≤ e.t ∧ e.t ≤ 8192

/-- What validation asks of weight n of a FEATHER table, where there is one (R180). -/
def WeightLegal (v : ValueTable) (n : Nat) : Prop :=
  ∀ w, v.values[n]? = some w → w ≤ 256 ∧ ∀ p, 1 ≤ n → v.values[n - 1]? = some p → p ≤ w

/-- What it asks of factor n of a GAIN table, where there is one (R180). -/
def FactorLegal (v : ValueTable) (n : Nat) : Prop := ∀ w, v.values[n]? = some w → w ≤ 65535

theorem columnMapHeaderOk_iff (m : ColumnMap) : columnMapHeaderOk m = true ↔ MapHeaderLegal m := by
  rw [columnMapHeaderOk, decide_eq_true_eq, MapHeaderLegal]
  omega

theorem mapEntryOk_iff (w : Nat) (prev : Option MapEntry) (e : MapEntry) : mapEntryOk w prev e = true ↔
    e.xs ≤ 4 * (w - 1) ∧ (∀ p, prev = some p → p.xs < e.xs) ∧ 2048 ≤ e.s ∧ e.s ≤ 4096 ∧ 4096 ≤ e.t ∧ e.t ≤ 8192 := by
  unfold mapEntryOk
  cases prev with
  | none => simp
  | some p => simp; tauto

theorem featherWeightOk_iff (prev : Option Nat) (w : Nat) : featherWeightOk prev w = true ↔
    w ≤ 256 ∧ ∀ p, prev = some p → p ≤ w := by
  unfold featherWeightOk
  cases prev with
  | none => simp
  | some p => simp

theorem mapEntryLegal_iff (m : ColumnMap) (n : Nat) : MapEntryLegal m n ↔
    ∀ e, m.entries[n]? = some e → mapEntryOk m.wFor (entryBefore none m.entries n) e = true := by
  simp only [MapEntryLegal, mapEntryOk_iff, entryBefore_forall m.entries n]

theorem weightLegal_iff (v : ValueTable) (n : Nat) : WeightLegal v n ↔
    ∀ w, v.values[n]? = some w → featherWeightOk (entryBefore none v.values n) w = true := by
  simp only [WeightLegal, featherWeightOk_iff, entryBefore_forall v.values n]

/-- The lowest index that fails, found by the search from the front. -/
theorem firstBad_lowest {α : Type} {ok : Option α → α → Bool} {l : List α} {legal : Nat → Prop} {n : Nat}
    (hlegal : ∀ k, legal k ↔ ∀ e, l[k]? = some e → ok (entryBefore none l k) e = true) (hn : ¬legal n)
    (hlow : ∀ k, k < n → legal k) : firstBad ok none 0 l = some n := by
  rw [hlegal] at hn
  push Not at hn
  obtain ⟨e, he, hbad⟩ := hn
  rw [firstBad_some ok l none 0 n e he (Bool.not_eq_true _ ▸ hbad) fun k hk => (hlegal k).1 (hlow k hk), Nat.zero_add]

theorem columnMapFault_header {m : ColumnMap} (h : ¬MapHeaderLegal m) : columnMapFault m = some (-1) := by
  rw [columnMapFault, if_neg (mt (columnMapHeaderOk_iff m).1 h)]

theorem columnMapFault_entry {m : ColumnMap} {n : Nat} (h : MapHeaderLegal m) (hn : ¬MapEntryLegal m n)
    (hlow : ∀ k, k < n → MapEntryLegal m k) : columnMapFault m = some n := by
  rw [columnMapFault, if_pos ((columnMapHeaderOk_iff m).2 h), firstBad_lowest (mapEntryLegal_iff m) hn hlow]
  rfl

theorem columnMapFault_eq_none_iff {m : ColumnMap} :
    columnMapFault m = none ↔ MapHeaderLegal m ∧ ∀ n, MapEntryLegal m n := by
  by_cases h : MapHeaderLegal m
  · rw [columnMapFault, if_pos ((columnMapHeaderOk_iff m).2 h), Option.map_eq_none_iff]
    simp only [h, true_and, mapEntryLegal_iff]
    exact ⟨ok_of_firstBad_none, firstBad_none _ _ _ _⟩
  · simp [columnMapFault_header h, h]

theorem featherFault_header {v : ValueTable} (h : 64 < v.count) : featherFault v = some (-1) := by
  rw [featherFault, if_neg (Nat.not_le.2 h)]

theorem featherFault_weight {v : ValueTable} {n : Nat} (h : v.count ≤ 64) (hn : ¬WeightLegal v n)
    (hlow : ∀ k, k < n → WeightLegal v k) : featherFault v = some n := by
  rw [featherFault, if_pos h, firstBad_lowest (weightLegal_iff v) hn hlow]
  rfl

theorem featherFault_eq_none_iff {v : ValueTable} : featherFault v = none ↔ v.count ≤ 64 ∧ ∀ n, WeightLegal v n := by
  by_cases h : v.count ≤ 64
  · rw [featherFault, if_pos h, Option.map_eq_none_iff]
    simp only [h, true_and, weightLegal_iff]
    exact ⟨ok_of_firstBad_none, firstBad_none _ _ _ _⟩
  · simp [featherFault_header (Nat.not_le.1 h), h]

/-- One GAIN factor against its range. -/
def factorOk (_ : Option Nat) (w : Nat) : Bool := decide (w ≤ 65535)

theorem factorLegal_iff (v : ValueTable) (n : Nat) : FactorLegal v n ↔
    ∀ w, v.values[n]? = some w → factorOk (entryBefore none v.values n) w = true := by
  simp only [FactorLegal, factorOk, decide_eq_true_eq]

theorem gainFault_header {v : ValueTable} (h : v.count ≠ 128) : gainFault v = some (-1) := by
  rw [gainFault, if_neg h]

theorem gainFault_of_count {v : ValueTable} (h : v.count = 128) :
    gainFault v = (firstBad factorOk none 0 v.values).map Int.ofNat := by
  rw [gainFault, if_pos h]
  rfl

theorem gainFault_factor {v : ValueTable} {n : Nat} (h : v.count = 128) (hn : ¬FactorLegal v n)
    (hlow : ∀ k, k < n → FactorLegal v k) : gainFault v = some n := by
  rw [gainFault_of_count h, firstBad_lowest (factorLegal_iff v) hn hlow]
  rfl

theorem gainFault_eq_none_iff {v : ValueTable} : gainFault v = none ↔ v.count = 128 ∧ ∀ n, FactorLegal v n := by
  by_cases h : v.count = 128
  · rw [gainFault_of_count h, Option.map_eq_none_iff]
    simp only [h, true_and, factorLegal_iff]
    exact ⟨ok_of_firstBad_none, firstBad_none _ _ _ _⟩
  · simp [gainFault_header h, h]

/-! ### PROFILE_RECALL (R194) -/

theorem exec_profileRecall_of_passed (h : s.offers body rest) (hc : dirCode body = 0x30) (hp : dirParams body = some [i.val])
    (hb : s.store.busy = none) : exec .profileRecall s = .next (arbitrate (recallSlot body i (s.taken rest))) := by
  show execProfileRecall s = _
  exact takeProfileSlot_of_passed (is := (· == 0x30)) (act := recallSlot) h (is_of_code hc) hp nofun hb nofun

theorem recallSlot_of_running (h : tablesMayChange s.sweep.state = false) :
    recallSlot body i s = replyTo body .wrongState [] s := by
  rw [recallSlot, h]
  rfl

theorem recallSlot_of_not_written (h : tablesMayChange s.sweep.state = true) (hs : (s.store.slots.get i).state ≠ .written) :
    recallSlot body i s = replyTo body .notWritten [] s := by
  rw [recallSlot, h, if_neg (by simp), if_pos hs]

theorem recallSlot_of_error {id : TableId} {n : Int} (h : tablesMayChange s.sweep.state = true)
    (hs : (s.store.slots.get i).state = .written) (hr : recallImage (s.store.slots.get i).image = .error (id, n)) :
    recallSlot body i s = replyTo body .invalidTable [natWord (tableIdCode id), intWord n] s := by
  rw [recallSlot, h, if_neg (by simp), if_neg (not_not.2 hs), hr]

theorem recallSlot_of_ok {m : ColumnMap} {f g : ValueTable} (h : tablesMayChange s.sweep.state = true)
    (hs : (s.store.slots.get i).state = .written) (hr : recallImage (s.store.slots.get i).image = .ok (m, f, g)) :
    recallSlot body i s = replyTo body .done [natWord i.val, natWord 7]
      { s with tables := { s.tables with columnMap := some m, feather := some f, gain := some g } } := by
  rw [recallSlot, h, if_neg (by simp), if_neg (not_not.2 hs), hr]

/-- Settles O36: the recall by the sweep state, the slot and its image; validation by the lowest index that fails. -/
theorem recallReplacesAllTablesOrNone : Obligations.RecallReplacesAllTablesOrNone := by
  refine ⟨fun s body rest i h hc hp hb => ⟨fun hst => ?_, fun hst => ⟨fun hw => ?_, fun hw =>
      ⟨fun id n hr => ?_, fun m f g hr => ?_⟩⟩⟩, fun m => ?_, fun v => ?_⟩
  · have hno : tablesMayChange s.sweep.state = false := by simp [tablesMayChange, hst]
    rw [exec_profileRecall_of_passed h hc hp hb, recallSlot_of_running (s := s.taken rest) hno]
  · have hmay : tablesMayChange s.sweep.state = true := decide_eq_true hst
    rw [exec_profileRecall_of_passed h hc hp hb, recallSlot_of_not_written (s := s.taken rest) hmay hw]
  · have hmay : tablesMayChange s.sweep.state = true := decide_eq_true hst
    rw [exec_profileRecall_of_passed h hc hp hb, recallSlot_of_error (s := s.taken rest) hmay hw hr]
  · have hmay : tablesMayChange s.sweep.state = true := decide_eq_true hst
    obtain ⟨hm, hf, hg⟩ := recallImage_ok hr
    refine ⟨hm, hf, hg, ?_⟩
    rw [exec_profileRecall_of_passed h hc hp hb, recallSlot_of_ok (s := s.taken rest) hmay hw hr]
    rfl
  · exact ⟨fun h => columnMapFault_header h, fun n h hn hlow => columnMapFault_entry h hn hlow,
      fun h he => columnMapFault_eq_none_iff.2 ⟨h, he⟩⟩
  · exact ⟨fun h => featherFault_header h, fun n h hn hlow => featherFault_weight h hn hlow,
      fun h hw => featherFault_eq_none_iff.2 ⟨h, hw⟩, fun h => gainFault_header h,
      fun n h hn hlow => gainFault_factor h hn hlow, fun h hw => gainFault_eq_none_iff.2 ⟨h, hw⟩⟩

/-! ### Where a table set's words stand (R186) -/

variable {m : ColumnMap} {f g v : ValueTable} {n : Nat}

theorem getElem?_append_of_some {α : Type} {l k : List α} {a : Nat} {x : α} (h : l[a]? = some x) : (l ++ k)[a]? = some x := by
  rw [List.getElem?_append_left (List.getElem?_eq_some_iff.1 h).1, h]

/-- Three words for each entry: those of entry n stand from 3n on. -/
theorem getElem?_flatMap_three {α β : Type} (a b c : α → β) {l : List α} {n : Nat} {e : α} (h : l[n]? = some e) :
    let ws := l.flatMap fun e => [a e, b e, c e]
    ws[3 * n]? = some (a e) ∧ ws[3 * n + 1]? = some (b e) ∧ ws[3 * n + 2]? = some (c e) := by
  induction l generalizing n with
  | nil => simp at h
  | cons x l ih =>
    cases n with
    | zero =>
      cases h
      exact ⟨rfl, rfl, rfl⟩
    | succ n => exact ih h

theorem length_columnMapWords (h : m.entries.length = m.k) : (columnMapWords m).length = featherBase m.k := by
  have hthree (l : List MapEntry) : (l.flatMap fun e => [natHalf e.xs, natHalf e.s, natHalf e.t]).length = 3 * l.length := by
    induction l with
    | nil => rfl
    | cons e l ih =>
      simp only [List.flatMap_cons, List.length_append, ih, List.length_cons, List.length_nil]
      omega
  rw [columnMapWords, List.length_append, hthree, h, featherBase]
  rfl

theorem length_valueTableWords (v : ValueTable) : (valueTableWords v).length = 1 + v.values.length := by
  rw [valueTableWords, List.length_cons, List.length_map, Nat.add_comm]

theorem getElem?_valueTableWords_head (v : ValueTable) : (valueTableWords v)[0]? = some (natHalf v.count) := rfl

theorem getElem?_valueTableWords {y : Nat} (h : v.values[n]? = some y) : (valueTableWords v)[1 + n]? = some (natHalf y) := by
  rw [valueTableWords, Nat.add_comm, List.getElem?_cons_succ, List.getElem?_map, h]
  rfl

theorem getElem?_columnMapWords {e : MapEntry} (h : m.entries[n]? = some e) :
    (columnMapWords m)[4 + 3 * n]? = some (natHalf e.xs) ∧ (columnMapWords m)[5 + 3 * n]? = some (natHalf e.s) ∧
      (columnMapWords m)[6 + 3 * n]? = some (natHalf e.t) := by
  obtain ⟨hxs, hs, ht⟩ := getElem?_flatMap_three (fun e : MapEntry => natHalf e.xs) (fun e => natHalf e.s)
    (fun e => natHalf e.t) h
  have hskip (k : Nat) : (columnMapWords m)[4 + k]? =
      (m.entries.flatMap fun e => [natHalf e.xs, natHalf e.s, natHalf e.t])[k]? := by
    rw [columnMapWords, List.getElem?_append_right (by simp)]
    simp
  rw [show 5 + 3 * n = 4 + (3 * n + 1) by omega, show 6 + 3 * n = 4 + (3 * n + 2) by omega, hskip, hskip, hskip]
  exact ⟨hxs, hs, ht⟩

/-- The words of a FEATHER table behind those of a COLUMN_MAP. -/
theorem getElem?_setWords_feather {w : Half} (hm : m.entries.length = m.k) (h : (valueTableWords f)[n]? = some w) :
    (setWords m f g)[featherBase m.k + n]? = some w := by
  refine getElem?_append_of_some ?_
  rw [List.getElem?_append_right (by rw [length_columnMapWords hm]; omega), length_columnMapWords hm, Nat.add_sub_cancel_left, h]

/-- The words of a GAIN table behind those of the other two. -/
theorem getElem?_setWords_gain {w : Half} (hm : m.entries.length = m.k) (hf : f.values.length = f.count)
    (h : (valueTableWords g)[n]? = some w) : (setWords m f g)[gainBase m.k f.count + n]? = some w := by
  have hlen : (columnMapWords m ++ valueTableWords f).length = gainBase m.k f.count := by
    rw [List.length_append, length_columnMapWords hm, length_valueTableWords, hf, gainBase, Nat.add_assoc]
  rw [setWords, List.getElem?_append_right (by rw [hlen]; omega), hlen, Nat.add_sub_cancel_left, h]

theorem getElem?_setWords_map {w : Half} (h : (columnMapWords m)[n]? = some w) : (setWords m f g)[n]? = some w :=
  getElem?_append_of_some (getElem?_append_of_some h)

/-! ### The image of a legal table set -/

theorem imageRead_of_getElem? {ws : List Half} {a : Nat} {w : Half} (ha : a < 6144) (h : ws[a]? = some w) :
    imageRead (imageOfWords ws) a = w := by
  rw [imageRead_imageOfWords ws (show a < imageSize from ha), List.getD_eq_getElem?_getD, h]
  rfl

theorem toNat_natHalf {x : Nat} (h : x < 65536) : (natHalf x).toNat = x := by
  rw [natHalf, BitVec.toNat_ofNat]
  exact Nat.mod_eq_of_lt h

theorem mapHeaderSpelled_setWords (m : ColumnMap) (f g : ValueTable) :
    mapHeaderSpelled (imageOfWords (setWords m f g)) (some m) := by
  refine ⟨m, rfl, ?_, ?_, ?_, ?_⟩ <;> exact imageRead_of_getElem? (by omega) (getElem?_setWords_map rfl)

/-- Three legal tables: what bounds the words of their image. -/
structure LegalSet (m : ColumnMap) (f g : ValueTable) : Prop where
  map : m.valid
  feather : f.validFeather
  gain : g.validGain

variable (h : LegalSet m f g)

include h

theorem LegalSet.bounds : m.k ≤ 1920 ∧ f.count ≤ 64 ∧ g.count = 128 := by
  have hheader := (columnMapFault_eq_none_iff.1 h.map.1).1
  obtain ⟨-, hw, -, -, -, -, -, -, hk⟩ := hheader
  exact ⟨hk.trans hw, (featherFault_eq_none_iff.1 h.feather.1).1, (gainFault_eq_none_iff.1 h.gain.1).1⟩

theorem LegalSet.gainBase_le : gainBase m.k f.count ≤ 5829 := by
  obtain ⟨hk, hf, -⟩ := h.bounds
  unfold gainBase featherBase
  omega

theorem LegalSet.mapEntrySpelled (n : Nat) : mapEntrySpelled (imageOfWords (setWords m f g)) (some m) n := by
  rw [mapEntrySpelled_some_iff]
  intro e he
  have hn : n < m.k := h.map.2 ▸ (List.getElem?_eq_some_iff.1 he).1
  obtain ⟨hk, -, -⟩ := h.bounds
  obtain ⟨hxs, hs, ht⟩ := getElem?_columnMapWords he
  exact ⟨imageRead_of_getElem? (by omega) (getElem?_setWords_map hxs),
    imageRead_of_getElem? (by omega) (getElem?_setWords_map hs), imageRead_of_getElem? (by omega) (getElem?_setWords_map ht)⟩

theorem LegalSet.featherHeaderSpelled : valueHeaderSpelled (imageOfWords (setWords m f g)) (featherBase m.k) (some f) := by
  obtain ⟨hk, -, -⟩ := h.bounds
  exact ⟨f, rfl, imageRead_of_getElem? (by unfold featherBase; omega)
    (getElem?_setWords_feather (n := 0) h.map.2 (getElem?_valueTableWords_head f))⟩

theorem LegalSet.featherSpelled (n : Nat) : valueSpelled (imageOfWords (setWords m f g)) (featherBase m.k) (some f) n := by
  rw [valueSpelled_some_iff]
  intro y hy
  have hn : n < f.count := h.feather.2 ▸ (List.getElem?_eq_some_iff.1 hy).1
  obtain ⟨hk, hf, -⟩ := h.bounds
  rw [Nat.add_assoc]
  exact imageRead_of_getElem? (by unfold featherBase; omega) (getElem?_setWords_feather h.map.2 (getElem?_valueTableWords hy))

theorem LegalSet.gainHeaderSpelled :
    valueHeaderSpelled (imageOfWords (setWords m f g)) (gainBase m.k f.count) (some g) := by
  have hbase := h.gainBase_le
  exact ⟨g, rfl, imageRead_of_getElem? (by omega)
    (getElem?_setWords_gain (n := 0) h.map.2 h.feather.2 (getElem?_valueTableWords_head g))⟩

theorem LegalSet.gainSpelled (n : Nat) :
    valueSpelled (imageOfWords (setWords m f g)) (gainBase m.k f.count) (some g) n := by
  rw [valueSpelled_some_iff]
  intro y hy
  have hn : n < g.count := h.gain.2 ▸ (List.getElem?_eq_some_iff.1 hy).1
  have hbase := h.gainBase_le
  obtain ⟨-, -, hg⟩ := h.bounds
  rw [Nat.add_assoc]
  exact imageRead_of_getElem? (by omega) (getElem?_setWords_gain h.map.2 h.feather.2 (getElem?_valueTableWords hy))

omit h

/-! ### The tables an image spells -/

variable {img : Image} {base : Nat}

/-- An image that spells a value table of words reads back that table. -/
theorem imageValueTable_of_spelled (hh : valueHeaderSpelled img base (some v)) (hv : ∀ n, valueSpelled img base (some v) n)
    (hcount : v.count < 65536) (hlen : v.values.length = v.count) (hvalues : ∀ n y : Nat, v.values[n]? = some y → y < 65536) :
    imageValueTable img base = v := by
  obtain ⟨x, hx, hhead⟩ := hh
  cases hx
  have hn : (imageRead img base).toNat = v.count := by rw [hhead, toNat_natHalf hcount]
  have hlist : (List.range v.count).map (fun j => (imageRead img (base + 1 + j)).toNat) = v.values := by
    refine List.ext_getElem (by simp [hlen]) fun n h1 h2 => ?_
    have hy : v.values[n]? = some v.values[n] := List.getElem?_eq_getElem h2
    rw [List.getElem_map, List.getElem_range, (valueSpelled_some_iff v).1 (hv n) _ hy, toNat_natHalf (hvalues n _ hy)]
  rw [imageValueTable, hn, hlist]

/-- An image that spells a legal COLUMN_MAP reads back that map. -/
theorem imageColumnMap_of_spelled (hh : mapHeaderSpelled img (some m)) (he : ∀ n, mapEntrySpelled img (some m) n)
    (hm : m.valid) : imageColumnMap img = m := by
  obtain ⟨x, hx, hw, hhFor, hyc, hk⟩ := hh
  cases hx
  obtain ⟨hheader, hentry⟩ := columnMapFault_eq_none_iff.1 hm.1
  obtain ⟨h1, h2, -, h4, h5, -, h7, h8, h9⟩ := hheader
  have hlist : (List.range m.k).map (fun k => (⟨(imageRead img (4 + 3 * k)).toNat, (imageRead img (5 + 3 * k)).toNat,
      (imageRead img (6 + 3 * k)).toNat⟩ : MapEntry)) = m.entries := by
    refine List.ext_getElem (by simp [hm.2]) fun n h1 h2 => ?_
    have hn : m.entries[n]? = some m.entries[n] := List.getElem?_eq_getElem h2
    obtain ⟨hxs, hs, ht⟩ := (mapEntrySpelled_some_iff m).1 (he n) _ hn
    obtain ⟨bxs, -, -, bs, -, bt⟩ := hentry n _ hn
    rw [List.getElem_map, List.getElem_range, hxs, hs, ht, toNat_natHalf (by omega), toNat_natHalf (by omega),
      toNat_natHalf (by omega)]
  rw [imageColumnMap]
  dsimp only
  rw [hw, hhFor, hyc, hk, toNat_natHalf (by omega), toNat_natHalf (by omega), toNat_natHalf (by omega), toNat_natHalf (by omega),
    hlist]

theorem recallImage_of_tables (hmap : imageColumnMap img = m) (hm : columnMapFault m = none)
    (hfeather : imageValueTable img (featherBase m.k) = f) (hf : featherFault f = none)
    (hgain : imageValueTable img (gainBase m.k f.count) = g) (hg : gainFault g = none) :
    recallImage img = .ok (m, f, g) := by
  unfold recallImage
  simp only [hmap, hm, hfeather, hf, hgain, hg]

include h

/-- R189, R194: what a write stored, a recall gives back. -/
theorem LegalSet.recallImage : recallImage (imageOfWords (setWords m f g)) = .ok (m, f, g) := by
  obtain ⟨-, hf, hg⟩ := h.bounds
  have hweights := (featherFault_eq_none_iff.1 h.feather.1).2
  have hfactors := (gainFault_eq_none_iff.1 h.gain.1).2
  exact recallImage_of_tables (imageColumnMap_of_spelled (mapHeaderSpelled_setWords m f g) h.mapEntrySpelled h.map) h.map.1
    (imageValueTable_of_spelled h.featherHeaderSpelled h.featherSpelled (by omega) h.feather.2 fun n y hy =>
      Nat.lt_of_le_of_lt (hweights n y hy).1 (by omega)) h.feather.1
    (imageValueTable_of_spelled h.gainHeaderSpelled h.gainSpelled (by omega) h.gain.2 fun n y hy =>
      Nat.lt_succ_of_le (hfactors n y hy)) h.gain.1

/-- R189, R190: and a verify finds no difference. -/
theorem LegalSet.imageDifference (assembly : Option Assembly) :
    imageDifference (imageOfWords (setWords m f g)) ⟨some m, some f, some g, assembly⟩ = none :=
  imageDifference_of_same (columnMapDifference_of_same (mapHeaderSpelled_setWords m f g) h.mapEntrySpelled)
    (valueTableDifference_of_same h.featherHeaderSpelled h.featherSpelled)
    (valueTableDifference_of_same h.gainHeaderSpelled h.gainSpelled)

omit h

/-! ### PROFILE_WRITE (R189) -/

theorem exec_profileWrite_of_passed (h : s.offers body rest) (hc : dirCode body = 0x32) (hp : dirParams body = some [i.val])
    (hm : s.mode = .service) (hb : s.store.busy = none) (hu : s.store.isProtected = false) :
    exec .profileWrite s = .next (arbitrate (writeSlot body i (s.taken rest))) := by
  show execProfileWrite s = _
  exact takeProfileSlot_of_passed (is := (· == 0x32)) (act := writeSlot) h (is_of_code hc) hp (fun _ => hm) hb fun _ => hu

theorem completeWrite_of_marker (h : s.store.marker = some ⟨i, .write⟩) : completeWrite s =
    storeReply 0x32 .done [natWord i.val] { s with store := { s.store with
      slots := s.store.slots.set i { s.store.slots.get i with
        state := .written, image := imageOfWords (workingSetWords s.tables) }
      marker := none } } := by
  rw [completeWrite, markedSlot_of_marker h]
  rfl

theorem workingSetWords_of_some {t : Tables} (hm : t.columnMap = some m) (hf : t.feather = some f) (hg : t.gain = some g) :
    workingSetWords t = setWords m f g := by
  rw [workingSetWords, hm, hf, hg]
  rfl

/-- Settles O32: the take by the slot's state and the tables, the image by `LegalSet`. -/
theorem writtenProfileRecallsTheWorkingSet : Obligations.WrittenProfileRecallsTheWorkingSet := by
  refine ⟨fun s body rest i h hc hp hm hb hu => ?_, fun s i m f g hrun hmarker hm hf hg hsound => ?_⟩
  · have hexec := exec_profileWrite_of_passed h hc hp hm hb hu
    refine ⟨fun hstate => ?_, fun hstate ht => ?_, fun hstate ht => ?_⟩
    · rw [hexec, writeSlot, if_pos (show ((s.taken rest).store.slots.get i).state ≠ .blank from hstate)]
    · rw [hexec, writeSlot, if_neg (not_not.2 (show ((s.taken rest).store.slots.get i).state = .blank from hstate)),
        if_pos (show tableValidity (s.taken rest).tables ≠ 7 from ht)]
    · rw [hexec, writeSlot, if_neg (not_not.2 (show ((s.taken rest).store.slots.get i).state = .blank from hstate)),
        if_neg (not_not.2 (show tableValidity (s.taken rest).tables = 7 from ht))]
      rfl
  · have hlegal : LegalSet m f g := ⟨hsound.1 m hm, hsound.2.1 f hf, hsound.2.2.1 g hg⟩
    refine ⟨imageOfWords (setWords m f g), ?_, imageOfWords_wf _, hlegal.recallImage, ?_⟩
    · show execProfileWriteComplete s = _
      rw [execProfileWriteComplete, event_inProgress hrun hmarker, completeWrite_of_marker hmarker,
        workingSetWords_of_some hm hf hg]
    · have htables : s.tables = ⟨some m, some f, some g, s.tables.assembly⟩ := by rw [← hm, ← hf, ← hg]
      rw [htables]
      exact hlegal.imageDifference _

end Sys2Proof.Proofs
end

section
/-! PROOF. O40 (R103, R117, R119), O43 (R139, R140) and O45 (R150 to R152, R165): a registration's completion, a composite's, and
the tiles that seal. -/

namespace Sys2Proof.Proofs

open Sys2Proof.Machine

variable {s : State} {i : Fin 3} {f : CapturedFrame}

/-! ### REGISTRATION_COMPLETE (R103) -/

theorem frameInWork_eq (hw : s.reg.work = some i) (hf : s.capture.slots.get i = some f) : frameInWork s = some (i, f) := by
  simp only [frameInWork, hw, hf, Option.map_some]

theorem exec_registrationComplete (hp : s.power = .running) (he : s.reg.engine = .matching) (hw : s.reg.work = some i)
    (hf : s.capture.slots.get i = some f) :
    exec .registrationComplete s = .next (arbitrate (completeRegistration i f s)) := by
  have hwork := frameInWork_eq hw hf
  have hcan : canCompleteRegistration s = true := by simp [canCompleteRegistration, he, hwork]
  have hend : registrationEnd s = completeRegistration i f s := by simp only [registrationEnd, hwork]
  rw [← hend]
  exact event_enabled hp hcan

theorem completeRegistration_of_failed (h : (registrationOf f s).reason ≠ .none) : completeRegistration i f s =
    endRegistration i (registrationOf f s).votes
      { registrationRecord .failed f s.reg.pred (registrationOf f s).count (registrationOf f s).support with
        reason := (registrationOf f s).reason } s := by
  rw [completeRegistration, if_neg h]

/-- The origin that a registration gives its frame (R118). -/
def registeredOrigin (f : CapturedFrame) (s : State) : Point :=
  ⟨s.placement.origin.x + (registrationOf f s).delta.x, s.placement.origin.y + (registrationOf f s).delta.y⟩

theorem completeRegistration_of_classified {o : FrameOutcome} (h : (registrationOf f s).reason = .none)
    (hc : classify s.sweep.params f.record.h (registeredOrigin f s) (registrationOf f s).delta = some o) :
    completeRegistration i f s = endRegistration i (registrationOf f s).votes
      { registrationRecord o f s.reg.pred (registrationOf f s).count (registrationOf f s).support with
        origin := registeredOrigin f s, delta := (registrationOf f s).delta } s := by
  rw [registeredOrigin] at hc
  rw [completeRegistration, if_pos h]
  dsimp only
  rw [hc]
  rfl

theorem completeRegistration_of_accepted (h : (registrationOf f s).reason = .none)
    (hc : classify s.sweep.params f.record.h (registeredOrigin f s) (registrationOf f s).delta = none) :
    completeRegistration i f s = testDrain (handToPlacement i f (registrationOf f s) (registeredOrigin f s) s) := by
  rw [registeredOrigin] at hc
  rw [completeRegistration, if_pos h]
  dsimp only
  rw [hc]
  rfl

theorem acceptance_eq (count support least : Nat) : acceptance count support least =
    if count = 0 ∨ support < least then .tooFew else if 2 * support < count then .noConsensus else .none := by
  unfold acceptance
  by_cases h0 : count = 0
  · simp [h0]
  · simp [h0]

/-! The four courses of R119. -/

section Classify

variable {p : SweepParams} {h : Nat} {o d : Point}

theorem classify_reversed (hx : d.x < -(p.tRev : Int)) : classify p h o d = some .reversed := by
  rw [classify, if_pos hx]

theorem classify_drifted (hx : -(p.tRev : Int) ≤ d.x) (hy : 4 * (p.margin + h / 2) < (o.y - 4 * p.margin).natAbs) :
    classify p h o d = some .drifted := by
  rw [classify, if_neg (Int.not_lt.2 hx), if_pos hy]

theorem classify_slow (hx : -(p.tRev : Int) ≤ d.x) (hy : (o.y - 4 * p.margin).natAbs ≤ 4 * (p.margin + h / 2))
    (ha : d.x < p.aMin) : classify p h o d = some .slow := by
  rw [classify, if_neg (Int.not_lt.2 hx), if_neg (Nat.not_lt.2 hy), if_pos ha]

theorem classify_none (hx : -(p.tRev : Int) ≤ d.x) (hy : (o.y - 4 * p.margin).natAbs ≤ 4 * (p.margin + h / 2))
    (ha : p.aMin ≤ d.x) : classify p h o d = none := by
  rw [classify, if_neg (Int.not_lt.2 hx), if_neg (Nat.not_lt.2 hy), if_neg (Int.not_lt.2 ha)]

end Classify

/-- Settles O40: the acceptance test, then the classification, then the hand-over. -/
theorem registrationFailsClassifiesOrHandsOver : Obligations.RegistrationFailsClassifiesOrHandsOver := by
  intro s i f hp he hw hf p m origin record ended accepted
  have hexec := exec_registrationComplete hp he hw hf
  have hended (o : FrameOutcome) (hreason : m.reason = .none) (hc : classify p f.record.h origin m.delta = some o) : accepted o := by
    show exec .registrationComplete s = _
    rw [hexec, completeRegistration_of_classified hreason hc]
    rfl
  refine ⟨acceptance_eq _ _ _, fun hreason => ?_, fun hreason => ⟨fun hx => hended _ hreason (classify_reversed hx),
    fun hx hy => hended _ hreason (classify_drifted hx hy),
    fun hx hy => ⟨fun ha => hended _ hreason (classify_slow hx hy ha), fun ha => ?_⟩⟩⟩
  · show exec .registrationComplete s = _
    rw [hexec, completeRegistration_of_failed hreason]
    rfl
  · rw [hexec, completeRegistration_of_accepted hreason (classify_none hx hy ha)]
    rfl

/-! ### The compositor (R139, R140) -/

/-- A composite's tile, written and one writer fewer, where it lies in the entry's range. -/
theorem paintTile_then_lower (en : CompositeEntry) (f : CapturedFrame) (s : State) (t : Tile) :
    (if en.firstTile ≤ (paintTile (paintInputs en f s) t).index ∧ (paintTile (paintInputs en f s) t).index ≤ en.lastTile then
      { paintTile (paintInputs en f s) t with writers := (paintTile (paintInputs en f s) t).writers - 1 }
      else paintTile (paintInputs en f s) t) =
    if en.firstTile ≤ t.index ∧ t.index ≤ en.lastTile then
      { paintTile (paintInputs en f s) t with writers := t.writers - 1 } else t := by
  by_cases hin : en.firstTile ≤ t.index ∧ t.index ≤ en.lastTile
  · have hin' : (paintInputs en f s).entry.firstTile ≤ t.index ∧ t.index ≤ (paintInputs en f s).entry.lastTile := hin
    rw [paintTile, if_pos hin', if_pos hin, if_pos hin]
  · have hin' : ¬((paintInputs en f s).entry.firstTile ≤ t.index ∧ t.index ≤ (paintInputs en f s).entry.lastTile) := hin
    rw [paintTile, if_neg hin', if_neg hin]

theorem changeWriters_paintEntry {en : CompositeEntry} (hf : s.capture.slots.get en.slot = some f) :
    changeWriters (· - 1) en.firstTile en.lastTile (paintEntry en s) = { s with ring := { s.ring with
      tiles := s.ring.tiles.map fun t =>
        if en.firstTile ≤ t.index ∧ t.index ≤ en.lastTile then
          { paintTile (paintInputs en f s) t with writers := t.writers - 1 } else t } } := by
  have hpaint : paintEntry en s = { s with ring := { s.ring with
      tiles := s.ring.tiles.map (paintTile (paintInputs en f s)) } } := by
    simp only [paintEntry, hf]
  rw [hpaint, changeWriters]
  dsimp only
  rw [List.map_map]
  have htiles := List.map_congr_left fun t (_ : t ∈ s.ring.tiles) => paintTile_then_lower en f s t
  rw [← htiles]
  rfl

/-- Settles O43: the take enters WRITING; the completion paints, lowers the counts and lets the frame go. -/
theorem compositorTakesAndCompletesTheHeadEntry : Obligations.CompositorTakesAndCompletesTheHeadEntry := by
  intro s en more hp hq
  refine ⟨fun hw => ?_, fun f hw hf => ?_⟩
  · show execCompositeTake s = _
    rw [execCompositeTake, event_enabled hp (by simp [canTakeComposite, hw, hq])]
    rfl
  · have hcan : canCompleteComposite s = true := by simp [canCompleteComposite, hw, hq]
    have hcomplete : completeComposite s = testDrain (examineTiles
        { freeSlot en.slot (changeWriters (· - 1) en.firstTile en.lastTile (paintEntry en s)) with comp := ⟨false, more⟩ }) := by
      simp only [completeComposite, hq]
    show execCompositeComplete s = _
    rw [execCompositeComplete, event_enabled hp hcan, hcomplete, changeWriters_paintEntry hf]
    rfl

/-! ### The tiles that seal (R150, R151) -/

theorem sealable_eq (s : State) (t : Tile) : sealable s t =
    decide (t.state = .opened ∧ t.writers = 0 ∧ (s.sweep.state = .draining ∨
      ((s.sweep.state = .tracking ∨ s.sweep.state = .coasting) ∧
        64 * (t.index : Int) + 63 ≤ s.placement.e - (((s.tables.feather.map (·.values)).getD []).length : Nat)))) := by
  have hcast : ((64 * t.index + 63 : Nat) : Int) = 64 * (t.index : Int) + 63 := by push_cast; rfl
  rw [sealable, featherCount, hcast, Bool.eq_iff_iff]
  simp only [Bool.and_eq_true, Bool.or_eq_true, decide_eq_true_eq, and_assoc]

theorem sealedIf_eq_ite (b : Bool) (t : Tile) : sealedIf b t = if b = true then { t with state := .sealed } else t := rfl

/-! ### A tile folded into the crop (R152) -/

theorem foldl_max_spec (g : Coverage → Nat) (l : List Coverage) (b : Nat) : let m := l.foldl (fun m x => max m (g x)) b
    b ≤ m ∧ (∀ c ∈ l, g c ≤ m) ∧ (m = b ∨ ∃ c ∈ l, g c = m) := by
  induction l generalizing b with
  | nil => simp
  | cons c l ih =>
    obtain ⟨hb, hall, hany⟩ := ih (max b (g c))
    refine ⟨(Nat.le_max_left ..).trans hb, fun d hd => ?_, ?_⟩
    · rcases List.mem_cons.1 hd with rfl | hd
      · exact (Nat.le_max_right ..).trans hb
      · exact hall d hd
    · rcases hany with heq | ⟨d, hd, heq⟩
      · rcases Nat.le_total b (g c) with h | h
        · exact .inr ⟨c, by simp, (Nat.max_eq_right h).symm.trans heq.symm⟩
        · exact .inl (heq.trans (Nat.max_eq_left h))
      · exact .inr ⟨d, List.mem_cons_of_mem c hd, heq⟩

theorem foldl_min_spec (g : Coverage → Nat) (l : List Coverage) (b : Nat) : let m := l.foldl (fun m x => min m (g x)) b
    m ≤ b ∧ (∀ c ∈ l, m ≤ g c) ∧ (m = b ∨ ∃ c ∈ l, g c = m) := by
  induction l generalizing b with
  | nil => simp
  | cons c l ih =>
    obtain ⟨hb, hall, hany⟩ := ih (min b (g c))
    refine ⟨hb.trans (Nat.min_le_left ..), fun d hd => ?_, ?_⟩
    · rcases List.mem_cons.1 hd with rfl | hd
      · exact hb.trans (Nat.min_le_right ..)
      · exact hall d hd
    · rcases hany with heq | ⟨d, hd, heq⟩
      · rcases Nat.le_total b (g c) with h | h
        · exact .inl (heq.trans (Nat.min_eq_left h))
        · exact .inr ⟨c, by simp, (Nat.min_eq_right h).symm.trans heq.symm⟩
      · exact .inr ⟨d, List.mem_cons_of_mem c hd, heq⟩

theorem foldCrop_of_unwritten {t : Tile} (h : ∀ c ∈ t.coverage, c = none) (crop : Option Coverage) : foldCrop crop t = crop := by
  have hnone : writtenColumns t = [] := List.eq_nil_iff_forall_not_mem.2 fun c hc =>
    Option.some_ne_none c (h _ ((mem_writtenColumns t c).1 hc))
  rw [foldCrop, hnone]

/-- The tops' greatest and the bottoms' least of a tile that was written. -/
theorem written_ends {t : Tile} (h : ∃ c ∈ t.coverage, c ≠ none) : ∃ top bottom : Nat,
    (foldCrop none t = some ⟨top, bottom⟩ ∧ ∀ p, foldCrop (some p) t = some ⟨max p.top top, min p.bottom bottom⟩) ∧
    (∀ c, some c ∈ t.coverage → c.top ≤ top ∧ bottom ≤ c.bottom) ∧
    (∃ c, some c ∈ t.coverage ∧ c.top = top) ∧ ∃ c, some c ∈ t.coverage ∧ c.bottom = bottom := by
  simp only [← mem_writtenColumns]
  obtain ⟨c, hc, hne⟩ := h
  obtain ⟨x, rfl⟩ := Option.ne_none_iff_exists'.1 hne
  cases hw : writtenColumns t with
  | nil => exact absurd ((mem_writtenColumns t x).2 hc) (by simp [hw])
  | cons d l =>
    obtain ⟨hd, htop, hattain⟩ := foldl_max_spec Coverage.top l d.top
    obtain ⟨hd', hbottom, hattain'⟩ := foldl_min_spec Coverage.bottom l d.bottom
    refine ⟨_, _, ⟨by rw [foldCrop, hw], fun p => by rw [foldCrop, hw]⟩, fun y hy => ?_, ?_, ?_⟩
    · rcases List.mem_cons.1 hy with rfl | hy
      · exact ⟨hd, hd'⟩
      · exact ⟨htop y hy, hbottom y hy⟩
    · rcases hattain with heq | ⟨y, hy, heq⟩
      · exact ⟨d, by simp, heq.symm⟩
      · exact ⟨y, by simp [hy], heq⟩
    · rcases hattain' with heq | ⟨y, hy, heq⟩
      · exact ⟨d, by simp, heq.symm⟩
      · exact ⟨y, by simp [hy], heq⟩

/-- R152: the crop with a written tile folded in. -/
theorem foldCrop_of_written {t : Tile} (h : ∃ c ∈ t.coverage, c ≠ none) (held : Option Coverage) :
    ∃ crop : Coverage, foldCrop held t = some crop ∧
      (∀ c, some c ∈ t.coverage → c.top ≤ crop.top ∧ crop.bottom ≤ c.bottom) ∧
      (∀ p, held = some p → p.top ≤ crop.top ∧ crop.bottom ≤ p.bottom) ∧
      (held = some ⟨crop.top, (held.getD ⟨0, 0⟩).bottom⟩ ∨ ∃ c, some c ∈ t.coverage ∧ c.top = crop.top) ∧
      (held = some ⟨(held.getD ⟨0, 0⟩).top, crop.bottom⟩ ∨ ∃ c, some c ∈ t.coverage ∧ c.bottom = crop.bottom) := by
  obtain ⟨top, bottom, ⟨hnone, hsome⟩, hall, htop, hbottom⟩ := written_ends h
  cases held with
  | none => exact ⟨⟨top, bottom⟩, hnone, hall, nofun, .inr htop, .inr hbottom⟩
  | some p =>
    refine ⟨_, hsome p, fun c hc => ?_, fun q hq => ?_, ?_, ?_⟩
    · exact ⟨(hall c hc).1.trans (Nat.le_max_right ..), (Nat.min_le_right ..).trans (hall c hc).2⟩
    · cases hq
      exact ⟨Nat.le_max_left .., Nat.min_le_left ..⟩
    · rcases Nat.le_total p.top top with hle | hle
      · exact .inr (by rwa [Nat.max_eq_right hle])
      · exact .inl (by rw [Nat.max_eq_left hle]; rfl)
    · rcases Nat.le_total p.bottom bottom with hle | hle
      · exact .inl (by rw [Nat.min_eq_left hle]; rfl)
      · exact .inr (by rwa [Nat.min_eq_right hle])

/-! ### One tile seals (R151, R165) -/

/-- A tile sealed, before the starvation of R165 is looked at. -/
def joinSealed (s : State) (t : Tile) : State :=
  { s with ring := { s.ring with
    tiles := s.ring.tiles.map fun u => if u.index = t.index then { u with state := .sealed } else u
    sealedQueue := s.ring.sealedQueue ++ [t.index]
    crop := foldCrop s.ring.crop t } }

theorem sealTile_eq (s : State) (t : Tile) : sealTile s t =
    if s.ring.sealedQueue = [] ∧ s.ring.credits = 0 then beginStarvation (joinSealed s t) else joinSealed s t := rfl

theorem sealTile_crop (s : State) (t : Tile) : (sealTile s t).ring.crop = foldCrop s.ring.crop t := by
  rw [sealTile_eq]
  split
  · rw [beginStarvation_ring_crop]
    rfl
  · rfl

theorem beginStarvation_of_starved (h : s.ring.starved = true) : beginStarvation s = s := by
  rw [beginStarvation, if_pos h]

theorem beginStarvation_of_clear (h : s.ring.starved = false) : beginStarvation s =
    raise .creditStarved (starvedWords s) { s with ring := { s.ring with starved := true } } := by
  rw [beginStarvation, h, if_neg Bool.false_ne_true]
  rfl

theorem sealTile_starving {t : Tile} (hq : s.ring.sealedQueue = []) (hc : s.ring.credits = 0) (hs : s.ring.starved = false) :
    (sealTile s t).ring.starved = true ∧ (sealTile s t).notes = (raise .creditStarved
      [natWord s.sweep.id, natWord t.index, natWord 1, natWord s.ring.tiles.length] s).notes := by
  have hwords : starvedWords (joinSealed s t) = [natWord s.sweep.id, natWord t.index, natWord 1, natWord s.ring.tiles.length] := by
    simp [starvedWords, joinSealed, hq]
  rw [sealTile_eq, if_pos ⟨hq, hc⟩, beginStarvation_of_clear (s := joinSealed s t) hs, hwords]
  exact ⟨rfl, rfl⟩

theorem sealTile_not_starving {t : Tile}
    (h : ¬(s.ring.sealedQueue = [] ∧ s.ring.credits = 0 ∧ s.ring.starved = false)) :
    (sealTile s t).ring.starved = s.ring.starved ∧ (sealTile s t).notes = s.notes := by
  rw [sealTile_eq]
  split
  · rename_i hempty
    have hs : s.ring.starved = true := by
      rw [← Bool.not_eq_false]
      exact fun hs => h ⟨hempty.1, hempty.2, hs⟩
    rw [beginStarvation_of_starved (s := joinSealed s t) hs]
    exact ⟨rfl, rfl⟩
  · exact ⟨rfl, rfl⟩

/-- Settles O45: the examination by `examineTiles_tiles`, one tile's sealing by the lemmas on `sealTile`. -/
theorem sealingFoldsTheTileIntoTheCrop : Obligations.SealingFoldsTheTileIntoTheCrop := by
  refine ⟨fun s hsorted => ?_, fun s t => ⟨?_, ⟨fun ⟨hq, hc, hs⟩ => sealTile_starving hq hc hs, sealTile_not_starving⟩,
    fun h => ?_, fun h => ?_⟩⟩
  · intro weights seals
    have hseals : sealable s = seals := funext (sealable_eq s)
    refine ⟨by rw [← hseals]; rfl, ?_, ?_, ?_⟩
    · rw [examineTiles_tiles hsorted, ← hseals]
      exact List.map_congr_left fun u _ => sealedIf_eq_ite _ u
    · rw [examineTiles_sealedQueue, hseals]
    · exact hsorted.sublist (List.filter_sublist.map _)
  · exact (foldl_sealTile_spec [t] s).1
  · rw [sealTile_crop, foldCrop_of_unwritten h]
  · rw [sealTile_crop]
    exact foldCrop_of_written h _

end Sys2Proof.Proofs
end

section
/-! PROOF. O41, O42 (R126 to R133, R146): placement's tests in their order, and a frame composited. -/

namespace Sys2Proof.Proofs

open Sys2Proof.Machine

variable {s : State} {i : Fin 3} {f : CapturedFrame} {h : Handover} {m : ColumnMap}

/-! ### Placement's event (R128) -/

theorem exec_placement (hp : s.power = .running) (he : s.reg.engine = .placing) (hw : s.reg.work = some i)
    (hf : s.capture.slots.get i = some f) (hh : s.reg.handover = some h) :
    exec .placement s = .next (arbitrate (placeHandover i f h s)) := by
  have hwork := frameInWork_eq hw hf
  have hcan : canPlace s = true := by simp [canPlace, he, hwork, hh]
  have hevent : placementEvent s = placeHandover i f h s := by simp only [placementEvent, hwork, hh]
  rw [← hevent]
  exact event_enabled hp hcan

/-- E' of section 7.2. -/
def placedEdge (m : ColumnMap) (h : Handover) (s : State) : Int :=
  min (h.origin.x / 4 + m.k - 1) ((s.sweep.params.wmax : Int) - 1)

/-- b of R126, before it is known not to be negative. -/
def bandOf (h : Handover) (s : State) : Int :=
  min ((((s.tables.feather.map (·.values)).getD []).length : Nat) : Int) (s.placement.e - h.origin.x / 4 + 1)

/-- c1 of R127. -/
def firstColumnWritten (h : Handover) (s : State) : Int := s.placement.e - bandOf h s + 1

theorem bandWidth_eq (h : Handover) (s : State) :
    bandWidth (featherCount s.tables) s.placement.e (firstColumn h.origin) = (bandOf h s).toNat := rfl

theorem bandOf_nonneg (hc : h.origin.x / 4 ≤ s.placement.e + 1) : 0 ≤ bandOf h s := by
  unfold bandOf
  omega

theorem firstWritten_eq (hc : h.origin.x / 4 ≤ s.placement.e + 1) :
    firstWritten s.placement.e (bandOf h s).toNat = firstColumnWritten h s := by
  rw [firstWritten, firstColumnWritten, Int.toNat_of_nonneg (bandOf_nonneg hc)]

theorem firstColumnWritten_le (hc : h.origin.x / 4 ≤ s.placement.e + 1) : firstColumnWritten h s ≤ s.placement.e + 1 := by
  have := bandOf_nonneg hc
  unfold firstColumnWritten
  omega

theorem placeHandover_gap (hgap : s.placement.e + 1 < h.origin.x / 4) : placeHandover i f h s = refuseFrame .gap i f h s :=
  if_pos hgap

theorem placeHandover_slow (hm : s.tables.columnMap = some m) (hc : h.origin.x / 4 ≤ s.placement.e + 1)
    (he : placedEdge m h s ≤ s.placement.e) : placeHandover i f h s = refuseFrame .slow i f h s := by
  have hedge : min (firstColumn h.origin + mapWidth (workingMap s.tables) - 1) ((s.sweep.params.wmax : Int) - 1) ≤ s.placement.e := by
    rw [workingMap_of_some hm]
    exact he
  rw [placeHandover]
  rw [if_neg (show ¬s.placement.e + 1 < firstColumn h.origin from Int.not_lt.2 hc), if_pos hedge]

theorem placeHandover_of_edge (hm : s.tables.columnMap = some m) (hc : h.origin.x / 4 ≤ s.placement.e + 1)
    (he : s.placement.e < placedEdge m h s) : placeHandover i f h s =
      if hasRoom s.placement.e (firstColumnWritten h s) (placedEdge m h s) s = true then
        compositeFrame i f h (bandOf h s).toNat (placedEdge m h s) s
      else refuseFrame .full i f h s := by
  have hedge : min (firstColumn h.origin + mapWidth (workingMap s.tables) - 1) ((s.sweep.params.wmax : Int) - 1) =
      placedEdge m h s := by
    rw [workingMap_of_some hm]
    rfl
  rw [placeHandover]
  rw [hedge, if_neg (show ¬s.placement.e + 1 < firstColumn h.origin from Int.not_lt.2 hc), if_neg (Int.not_le.2 he), bandWidth_eq,
    firstWritten_eq hc]

/-- R131: room is where the resident tiles the frame reaches are OPEN and the free places hold the new ones. -/
theorem hasRoom_iff {c1 e eNew : Int} (hc : c1 ≤ e + 1) (he : e < eNew) : hasRoom e c1 eNew s = true ↔
    (∀ n : Int, c1 / 64 ≤ n → n ≤ eNew / 64 → n ≤ e / 64 → ∃ t ∈ s.ring.tiles, (t.index : Int) = n ∧ t.state = .opened) ∧
      eNew / 64 - e / 64 ≤ (32 - s.ring.tiles.length : Nat) := by
  have hmax : max (e / 64) (c1 / 64 - 1) = e / 64 := by omega
  rw [hasRoom, hmax, Bool.and_eq_true, decide_eq_true_eq, List.all_eq_true]
  simp only [List.mem_range, Bool.or_eq_true, decide_eq_true_eq, List.any_eq_true]
  refine and_congr ⟨fun hall n h1 h2 h3 => ?_, fun hall k hk => ?_⟩ (by omega)
  · rcases hall (n - c1 / 64).toNat (by omega) with hnew | ⟨t, ht, hidx, hopen⟩
    · omega
    · exact ⟨t, ht, by omega, hopen⟩
  · by_cases hnew : e / 64 < c1 / 64 + k
    · exact .inl hnew
    · obtain ⟨t, ht, hidx, hopen⟩ := hall (c1 / 64 + k) (by omega) (by omega) (by omega)
      exact .inr ⟨t, ht, hidx, hopen⟩

theorem refuseFrame_eq (o : FrameOutcome) : refuseFrame o i f h s = testDrain (decideOutcome
    { registrationRecord o f s.reg.pred h.claims h.support with origin := h.origin, delta := h.delta }
    (freeSlot i { s with reg := { s.reg with engine := .waiting, work := none, handover := none } })) := rfl

/-- Settles O41: the three refusals in the order of R128. -/
theorem placementRefusesByTheFirstTestThatHolds : Obligations.PlacementRefusesByTheFirstTestThatHolds := by
  intro s i f h m hp he hw hf hh hm e cx0 eNew c1 noRoom refused
  have hexec := exec_placement hp he hw hf hh
  refine ⟨fun hgap => ?_, fun hc hslow => ?_, fun hc hlt hno => ?_⟩
  · show exec .placement s = _
    rw [hexec, placeHandover_gap hgap, refuseFrame_eq]
  · show exec .placement s = _
    rw [hexec, placeHandover_slow hm hc hslow, refuseFrame_eq]
  · have hroom : ¬hasRoom s.placement.e (firstColumnWritten h s) (placedEdge m h s) s = true := fun hroom => by
      obtain ⟨hopen, hfit⟩ := (hasRoom_iff (firstColumnWritten_le hc) hlt).1 hroom
      rcases hno with ⟨n, h1, h2, h3, hclosed⟩ | hfull
      · obtain ⟨t, ht, hidx, hstate⟩ := hopen n h1 h2 h3
        exact hclosed t ht hidx hstate
      · exact absurd hfit (Int.not_le.2 hfull)
    show exec .placement s = _
    rw [hexec, placeHandover_of_edge hm hc hlt, if_neg hroom, refuseFrame_eq]

/-! ### DRIFT_CROP (R91, R146) -/

theorem overhangs_iff {en : MapEntry} {o : Point} {n hc : Nat} (ht : 4096 ≤ en.t) (hy : m.yc < n) :
    overhangs m en o n hc = true ↔ ∃ r : Int, rowCovered m en o n r = true ∧ (r < 0 ∨ (hc : Int) ≤ r) := by
  have hne : ∀ a b : Nat, (a, b) ≠ (0, 0) ↔ 0 < a ∨ 0 < b := fun a b => by
    rw [ne_eq, Prod.mk.injEq]
    omega
  rw [overhangs, overhang, decide_eq_true_eq, hne, List.countP_pos_iff, List.countP_pos_iff]
  simp only [List.mem_filter, decide_eq_true_eq]
  constructor
  · rintro (⟨r, ⟨-, hr⟩, hout⟩ | ⟨r, ⟨-, hr⟩, hout⟩)
    · exact ⟨r, hr, .inl hout⟩
    · exact ⟨r, hr, .inr hout⟩
  · rintro ⟨r, hr, hout | hout⟩
    · exact .inl ⟨r, ⟨rowCovered_window ht hy hr, hr⟩, hout⟩
    · exact .inr ⟨r, ⟨rowCovered_window ht hy hr, hr⟩, hout⟩

/-- Outside the map the model's entry has scale 1. -/
theorem entryOfColumn_t (hm : ∀ e ∈ m.entries, 4096 ≤ e.t) (o : Point) (c : Int) : 4096 ≤ (entryOfColumn m o c).t := by
  unfold entryOfColumn
  rw [List.getD_eq_getElem?_getD]
  cases hget : m.entries[(c - firstColumn o).toNat]? with
  | none => exact Nat.le_refl _
  | some e => exact hm e (List.mem_of_getElem? hget)

theorem driftCrop_iff {o : Point} {n hc : Nat} {c1 eNew : Int} (hm : ∀ e ∈ m.entries, 4096 ≤ e.t) (hy : m.yc < n) :
    driftCrop m o n hc c1 eNew = true ↔ ∃ c r : Int, c1 ≤ c ∧ c ≤ eNew ∧
      rowCovered m (entryOfColumn m o c) o n r = true ∧ (r < 0 ∨ (hc : Int) ≤ r) := by
  rw [driftCrop, List.any_eq_true]
  simp only [List.mem_range, overhangs_iff (entryOfColumn_t hm o _) hy]
  constructor
  · rintro ⟨k, hk, r, hr⟩
    exact ⟨c1 + k, r, by omega, by omega, hr⟩
  · rintro ⟨c, r, h1, h2, hr⟩
    refine ⟨(c - c1).toNat, by omega, r, ?_⟩
    rwa [show c1 + ((c - c1).toNat : Int) = c by omega]

/-! ### A frame composited (R132) -/

/-- What placement with room leaves before the outcome is decided. -/
theorem placeFrame_eq {o d : Point} {band : Nat} {eNew g : Int} (hm : s.tables.columnMap = some m) :
    placeFrame i f o d band eNew g s = { s with
      ring := { s.ring with
        tiles := (s.ring.tiles ++ freshTiles s.sweep.hc (s.placement.e / 64 + 1) (eNew / 64)).map
          (raisedIn (firstWritten s.placement.e band / 64).toNat (eNew / 64).toNat) }
      comp := { s.comp with queue := s.comp.queue ++
        [⟨i, o, s.placement.e, band, eNew, g, (firstWritten s.placement.e band / 64).toNat, (eNew / 64).toNat⟩] }
      placement := ⟨eNew, s.placement.e0, o, f.record.roll, d⟩
      reg := { s.reg with
        anchors := buildAnchors m o f.record.roll (keypointsOf f.detection)
        header := ⟨f.record.hintX, f.record.hintY, f.record.broken⟩ }
      capture := { s.capture with slots := s.capture.slots.set i (some { f with state := .placed }) } } := by
  rw [← workingMap_of_some hm]
  rfl

/-- The tiles above floor(E/64), up to the one of the new E. -/
theorem freshTiles_above (hc : Nat) (e eNew : Int) : freshTiles hc (e / 64 + 1) (eNew / 64) =
    (List.range (eNew / 64 - e / 64).toNat).map fun n => freshTile hc ((e / 64 + 1).toNat + n) := by
  rw [freshTiles, show eNew / 64 + 1 - (e / 64 + 1) = eNew / 64 - e / 64 by omega]

/-- Settles O42: the frame placed by `placeFrame_eq`, DRIFT_CROP by `driftCrop_iff`, the width limit by its test. -/
theorem placementWithRoomCompositesTheFrame : Obligations.PlacementWithRoomCompositesTheFrame := by
  refine ⟨fun s i f h m hp he hw hf hh hm => ?_, fun m o n hc c1 eNew hm hy => ?_, fun s => ?_⟩
  · intro e cx0 eNew b c1 gain opened u hc1 hc hlt hopen hfit
    have hroom := (hasRoom_iff (s := s) (firstColumnWritten_le hc) hlt).2 ⟨hopen, hfit⟩
    have hband : firstWritten s.placement.e b.toNat = c1 := firstWritten_eq hc
    have hplaced : placeFrame i f h.origin h.delta b.toNat eNew gain (releaseEngine s) = u := by
      rw [placeFrame_eq (s := releaseEngine s) hm]
      show State.mk _ _ _ _ _ _ _ _ _ _ _ _ _ _ _ _ _ _ _ = _
      have hfresh := freshTiles_above s.sweep.hc s.placement.e eNew
      simp only [releaseEngine, hband, hfresh]
      rfl
    rw [exec_placement hp he hw hf hh, placeHandover_of_edge hm hc hlt,
      if_pos (show hasRoom _ _ (placedEdge m h s) s = true from hroom), compositeFrame, workingMap_of_some hm]
    dsimp only
    rw [show firstWritten s.placement.e (bandOf h s).toNat = c1 from hband,
      show gainIndex s.placement.e0 f.record.exposure = gain from rfl,
      show placeFrame i f h.origin h.delta (bandOf h s).toNat (placedEdge m h s) gain (releaseEngine s) = u from hplaced]
    rfl
  · rw [driftCrop_iff hm hy]
    simp only [rowCovered, decide_eq_true_eq]
  · exact ⟨fun hlimit => if_pos hlimit, fun hlimit => if_neg hlimit⟩

end Sys2Proof.Proofs
end

section
/-! PROOF. O38 (R27, R28, R97, R98, R134): the seed placed at the canvas origin, and the anchors of a keypoint list. -/

namespace Sys2Proof.Proofs

open Sys2Proof.Machine

variable {s : State} {i : Fin 3} {f : CapturedFrame} {m : ColumnMap}

/-! ### The anchor table (R97, R98) -/

theorem anchorBefore_iff (a b : Anchor) : anchorBefore a b = true ↔
    a.ax < b.ax ∨ (a.ax = b.ax ∧ (a.ay < b.ay ∨ (a.ay = b.ay ∧ a.source ≤ b.source))) := by
  rw [anchorBefore, decide_eq_true_eq]

/-- Table order is total and transitive, so a rebuilt table is in it. -/
theorem pairwise_buildAnchors (m : ColumnMap) (o : Point) (roll : BitVec 4) (kps : List Keypoint) :
    (buildAnchors m o roll kps).Pairwise fun a b => anchorBefore a b = true := by
  have : Std.Total fun a b : Anchor => anchorBefore a b = true := ⟨fun a b => by
    simp only [anchorBefore_iff]
    omega⟩
  have : IsTrans Anchor fun a b => anchorBefore a b = true := ⟨fun a b c => by
    simp only [anchorBefore_iff]
    omega⟩
  exact List.pairwise_insertionSort _ _

theorem buildAnchors_perm (m : ColumnMap) (o : Point) (roll : BitVec 4) (kps : List Keypoint) :
    (buildAnchors m o roll kps).Perm (kps.map (anchorOf m o roll)) := List.perm_insertionSort _ _

theorem anchorOf_of_getElem? {o : Point} {roll : BitVec 4} {kps : List Keypoint} {n : Nat} {a : Anchor} {k : Keypoint}
    (ha : (kps.map (anchorOf m o roll))[n]? = some a) (hk : kps[n]? = some k) : a = anchorOf m o roll k := by
  rw [List.getElem?_map, hk] at ha
  exact (Option.some.inj ha).symm

/-! ### The seed's place (R27, R134) -/

/-- The E that the seed gives. -/
def seedEdge (m : ColumnMap) (s : State) : Int := min ((m.k : Int) - 1) ((s.sweep.params.wmax : Int) - 1)

/-- The seed placed, its outcome not yet decided. -/
def seeded (i : Fin 3) (f : CapturedFrame) (m : ColumnMap) (s : State) : State :=
  let o : Point := ⟨0, 4 * s.sweep.params.margin⟩
  let e := seedEdge m s
  let last := (e / 64).toNat
  { s with
    placement := ⟨e, f.record.exposure, o, f.record.roll, ⟨0, 0⟩⟩
    capture := { s.capture with slots := s.capture.slots.set i (some { f with state := .placed }) }
    reg := { s.reg with
      anchors := buildAnchors m o f.record.roll (keypointsOf f.detection)
      header := ⟨f.record.hintX, f.record.hintY, f.record.broken⟩ }
    comp := { s.comp with queue := [⟨i, o, -1, 0, e, 0, 0, last⟩] }
    ring := { s.ring with tiles := (List.range (last + 1)).map fun n => { freshTile s.sweep.hc n with writers := 1 } } }

/-- The seed's outcome record. -/
def seedRecord (f : CapturedFrame) (s : State) : OutcomeRecord :=
  { f.outcome .seed with origin := ⟨0, 4 * s.sweep.params.margin⟩ }

theorem seedRecord_eq (f : CapturedFrame) (s : State) :
    (⟨f.record.seq, .seed, .none, ⟨0, 4 * s.sweep.params.margin⟩, ⟨0, 0⟩, ⟨0, 0⟩, 0, 0,
        (detectionCounts f.detection).1, (detectionCounts f.detection).2, 0, false, false, f.record.repaired⟩ : OutcomeRecord) =
      seedRecord f s := by
  unfold seedRecord CapturedFrame.outcome
  cases f.detection <;> rfl

/-- The first tiles of an empty ring, each with the seed as its writer. -/
theorem seedTiles (hc : Nat) {e : Int} (he : 0 ≤ e) : (freshTiles hc (-1 / 64 + 1) (e / 64)).map (raisedIn 0 (e / 64).toNat) =
    (List.range ((e / 64).toNat + 1)).map fun n => { freshTile hc n with writers := 1 } := by
  have hcount : (e / 64 + 1 - (-1 / 64 + 1)).toNat = (e / 64).toNat + 1 := by omega
  rw [freshTiles, hcount, List.map_map]
  refine List.map_congr_left fun n hn => ?_
  have hn : n < (e / 64).toNat + 1 := List.mem_range.1 hn
  have hzero : (-1 / 64 + 1 : Int).toNat + n = n := by omega
  rw [Function.comp_apply, hzero, raisedIn, if_pos ⟨Nat.zero_le _, Nat.le_of_lt_succ hn⟩]
  rfl

theorem takeSeed_eq (hm : s.tables.columnMap = some m) (hk : 1 ≤ m.k) (hw : 1 ≤ s.sweep.params.wmax)
    (he : s.placement.e = -1) (hq : s.comp.queue = []) (ht : s.ring.tiles = []) :
    takeSeed i f s = takeWidthLimit (decideOutcome (seedRecord f s) (seeded i f m s)) := by
  have hedge : 0 ≤ seedEdge m s := by
    unfold seedEdge
    omega
  have hplaced : placeFrame i f ⟨0, 4 * s.sweep.params.margin⟩ ⟨0, 0⟩ 0 (seedEdge m s) 0
      { s with placement := { s.placement with e0 := f.record.exposure } } = seeded i f m s := by
    rw [placeFrame_eq (s := { s with placement := { s.placement with e0 := f.record.exposure } }) hm, seeded]
    dsimp only
    have hfirst : (firstWritten (-1) 0 / 64).toNat = 0 := rfl
    rw [he, hq, ht, List.nil_append, List.nil_append, hfirst, seedTiles _ hedge]
  rw [takeSeed, workingMap_of_some hm]
  dsimp only
  rw [seedRecord_eq]
  exact congrArg (fun u => takeWidthLimit (decideOutcome (seedRecord f s) u)) hplaced

/-- R30, R41: the seed's outcome begins the tracking. -/
theorem decideOutcome_seed {r : OutcomeRecord} (ho : r.outcome = .seed) (hs : s.sweep.state = .armed) :
    decideOutcome r s = changeSweep .tracking .none (countOutcome r 0 s) := by
  have heffect : coastEffect r.outcome s.sweep.state = .clear := by rw [ho]; rfl
  rw [decideOutcome]
  dsimp only
  rw [heffect, coastAfter, recordOutcome_with_coast, followCoast, countOutcome_sweep_state, hs]
  exact if_pos ho

/-! ### The width limit, where a composite waits (R28, R34) -/

/-- With a composite queued the drain is not complete, and an entry to DRAINING stays there. -/
theorem enterDraining_of_queue {cause : EndCause} (hq : s.comp.queue ≠ []) :
    (enterDraining cause s).sweep = { s.sweep with state := .draining, cause := cause } := by
  have hcomp : (examineTiles (discardCaptured (changeSweep .draining cause s))).comp = s.comp := by simp
  rw [enterDraining, testDrain_of_incomplete fun hd => hq (hcomp ▸ (drainComplete_iff.1 hd).2.2.1), examineTiles_sweep,
    discardCaptured_sweep]
  rfl

/-- Tiles that still have writers do not seal. -/
theorem examineTiles_of_writers (h : ∀ t ∈ s.ring.tiles, t.writers ≠ 0) : examineTiles s = s := by
  rw [examineTiles, List.filter_eq_nil_iff.2 fun t ht hs => h t ht (sealable_iff_opened hs).2]
  rfl

theorem enterDraining_tiles_of_writers {cause : EndCause} (h : ∀ t ∈ s.ring.tiles, t.writers ≠ 0) :
    (enterDraining cause s).ring.tiles = s.ring.tiles := by
  have hring : (discardCaptured (changeSweep .draining cause s)).ring = s.ring := by simp
  rw [enterDraining, testDrain_ring, examineTiles_of_writers (by rw [hring]; exact h), hring]

/-- No part of an entry to DRAINING counts a frame as composited. -/
theorem enterDraining_framesComposited (cause : EndCause) (s : State) :
    (enterDraining cause s).counters.framesComposited = s.counters.framesComposited := by
  have hdiscard (u : State) (i : Fin 3) : (discardSlot u i).counters.framesComposited = u.counters.framesComposited := by
    unfold discardSlot
    split <;> rfl
  rw [enterDraining, testDrain_counters, examineTiles_counters]
  exact foldl_keeps discardSlot (·.counters.framesComposited) hdiscard _ _

/-! ### The seed decided -/

/-- The seed's outcome decided, the width limit not yet looked at. -/
def seedDecided (i : Fin 3) (f : CapturedFrame) (m : ColumnMap) (s : State) : State :=
  changeSweep .tracking .none (countOutcome (seedRecord f s) 0 (seeded i f m s))

theorem seedDecided_eq (hs : s.sweep.state = .armed) :
    decideOutcome (seedRecord f s) (seeded i f m s) = seedDecided i f m s := decideOutcome_seed rfl hs

theorem captureAgrees_seedDecided (hcap : s.captureAgrees) (hi : slotState s i = some .ready) :
    (seedDecided i f m s).captureAgrees :=
  captureAgrees_setSlot (s := s) (f := { f with state := .placed }) (by rw [hi]; simp) (by simp) hcap

theorem slots_seedDecided : (seedDecided i f m s).capture.slots.get i = some { f with state := .placed } := by
  show (s.capture.slots.set i _).get i = _
  rw [FrameSlots.get_set, if_pos rfl]

theorem takeWidthLimit_of_edge (hs : s.sweep.state = .tracking) (he : s.placement.e = (s.sweep.params.wmax : Int) - 1) :
    takeWidthLimit s = enterDraining .widthLimit s := if_pos ⟨.inl hs, he⟩

theorem takeWidthLimit_of_below (he : s.placement.e ≠ (s.sweep.params.wmax : Int) - 1) : takeWidthLimit s = s :=
  if_neg fun hlimit => he hlimit.2

theorem takeWidthLimit_cases (s : State) : takeWidthLimit s = s ∨ takeWidthLimit s = enterDraining .widthLimit s := by
  unfold takeWidthLimit
  split
  · exact .inr rfl
  · exact .inl rfl

/-- What the width limit leaves of a frame just placed. -/
theorem takeWidthLimit_seedDecided (hcap : s.captureAgrees) (hi : slotState s i = some .ready) :
    let t := takeWidthLimit (seedDecided i f m s)
    t.placement = (seeded i f m s).placement ∧ t.reg = (seeded i f m s).reg ∧ t.comp = (seeded i f m s).comp ∧
      t.ring.tiles = (seeded i f m s).ring.tiles ∧ t.capture.slots.get i = some { f with state := .placed } ∧
      t.counters.framesComposited = min 65535 (s.counters.framesComposited + 1) := by
  intro t
  rcases takeWidthLimit_cases (seedDecided i f m s) with e | e
  · rw [show t = seedDecided i f m s from e]
    exact ⟨rfl, rfl, rfl, rfl, slots_seedDecided, rfl⟩
  · rw [show t = enterDraining .widthLimit (seedDecided i f m s) from e]
    refine ⟨by rw [enterDraining_placement]; rfl, by rw [enterDraining_reg]; rfl, by rw [enterDraining_comp]; rfl, ?_, ?_, ?_⟩
    · refine enterDraining_tiles_of_writers fun u hu => ?_
      obtain ⟨n, -, rfl⟩ := List.mem_map.1 (show u ∈ (List.range _).map _ from hu)
      exact Nat.one_ne_zero
    · rw [get_enterDraining _ (captureAgrees_seedDecided hcap hi), slots_seedDecided, if_neg]
      rw [captured_of_slot slots_seedDecided]
      simp
    · rw [enterDraining_framesComposited]
      rfl

theorem sweep_seedDecided (he : seedEdge m s = (s.sweep.params.wmax : Int) - 1) :
    (takeWidthLimit (seedDecided i f m s)).sweep =
      { (seedDecided i f m s).sweep with state := .draining, cause := .widthLimit } := by
  rw [takeWidthLimit_of_edge (s := seedDecided i f m s) rfl he]
  exact enterDraining_of_queue (List.cons_ne_nil _ _)

/-- Settles O38: the seed's state by `takeSeed_eq`, what the width limit leaves of it, and the anchor table. -/
theorem seedIsPlacedAtTheCanvasOrigin : Obligations.SeedIsPlacedAtTheCanvasOrigin := by
  refine ⟨fun s i f m hp hcoh hs hi hf hm hk hw => ?_, fun m o roll kps hm => ⟨?_, kps.map (anchorOf m o roll), ?_, ?_, ?_⟩⟩
  · intro o e last record crop
    obtain ⟨hengine, hqueue, htiles⟩ := hcoh.2.2.2.1 (.inr (.inl hs))
    have hedge := hcoh.2.2.2.2 hs
    have hready : slotState s i = some .ready := oldestIn_spec hi
    have hcan : canTakeFrame s = true := canTakeFrame_of_ready hengine hi (by rw [hs]; rfl)
    have htake : takeFrame s = takeSeed i f s := by simp [takeFrame, hi, hf, hs]
    have hexec : exec .registrationTake s = .next (arbitrate (takeWidthLimit (decideOutcome (seedRecord f s) (seeded i f m s)))) := by
      rw [exec_registrationTake, execRegistrationTake, event_enabled hp hcan, htake, takeSeed_eq hm hk hw hedge hqueue htiles]
    refine ⟨hexec, ?_⟩
    rw [seedDecided_eq hs] at hexec
    obtain ⟨hplace, hreg, hcomp, hring, hslot, hcount⟩ := takeWidthLimit_seedDecided (f := f) (m := m) hcoh.1 hready
    refine ⟨_, hexec, fun he => ?_, ?_, ?_, ?_, ?_, ?_, ?_, ?_, ?_, ?_, ?_, ?_, ?_⟩
    · rw [arbitrate_notes, takeWidthLimit_of_below (s := seedDecided i f m s) he]
      rfl
    · rw [arbitrate_placement, hplace]
      rfl
    · rw [arbitrate_sweep_state]
      split
      · rw [sweep_seedDecided ‹_›]
      · rw [takeWidthLimit_of_below (s := seedDecided i f m s) ‹_›]
        rfl
    · rw [arbitrate_sweep_cause]
      split
      · rw [sweep_seedDecided ‹_›]
      · rw [takeWidthLimit_of_below (s := seedDecided i f m s) ‹_›]
        rfl
    · rw [arbitrate_sweep_coast]
      by_cases he : e = (s.sweep.params.wmax : Int) - 1
      · rw [sweep_seedDecided he]
        rfl
      · rw [takeWidthLimit_of_below (s := seedDecided i f m s) he]
        rfl
    · rw [arbitrate_sweep_framesComposited]
      by_cases he : e = (s.sweep.params.wmax : Int) - 1
      · rw [sweep_seedDecided he]
        rfl
      · rw [takeWidthLimit_of_below (s := seedDecided i f m s) he]
        rfl
    · rw [arbitrate_counters, hcount]
    · rw [arbitrate_capture, hslot]
    · rw [arbitrate_reg, hreg]
      exact hengine
    · rw [arbitrate_reg, hreg]
      rfl
    · rw [arbitrate_reg, hreg]
      rfl
    · rw [arbitrate_comp, hcomp]
      rfl
    · rw [arbitrate_ring, hring]
      rfl
  · exact (pairwise_buildAnchors m o roll kps).imp fun hab => (anchorBefore_iff _ _).1 hab
  · exact buildAnchors_perm m o roll kps
  · exact List.length_map _
  · intro n a k ha hk
    obtain ⟨hget, hnear⟩ := nearestEntry_spec k.x hm
    rw [anchorOf_of_getElem? ha hk]
    exact ⟨⟨_, _, hget, fun j x hx => hnear j x hx, rfl, rfl⟩, rfl, rfl, rfl,
      fun b hb => ⟨rotateCode_bit roll k.ring hb, rotateCode_bit roll k.chord hb⟩⟩

end Sys2Proof.Proofs
end

section
/-! PROOF. O60 (R116, R118): the mean rounded away from zero is a nearest integer, and the mean of displacements of the search window
lies in that window. -/

namespace Sys2Proof.Proofs

open Sys2Proof.Machine

/-! ### The rounded mean (R118) -/

/-- Rounding a half up: the quotient of 2s + n by 2n lies less than a half below s / n and at most a half above it. -/
theorem roundedQuotient_bounds (s : Int) {n : Nat} (hn : 0 < n) :
    -(n : Int) < 2 * (n * ((2 * s + n) / (2 * n)) - s) ∧ 2 * (n * ((2 * s + n) / (2 * n)) - s) ≤ n := by
  have hdiv := Int.mul_ediv_add_emod (2 * s + n) (2 * n)
  have hnonneg := Int.emod_nonneg (2 * s + n) (b := 2 * n) (by omega)
  have hlt := Int.emod_lt_of_pos (2 * s + n) (b := 2 * n) (by omega)
  rw [mul_assoc] at hdiv
  omega

/-- The mean of a negative sum is the negated mean of the sum's negation. -/
theorem meanAwayFromZero_of_neg {s : Int} (hs : s < 0) (n : Nat) :
    meanAwayFromZero s n = -((2 * -s + n) / (2 * n)) := by
  rw [meanAwayFromZero, if_neg (by omega), Int.neg_mul_comm]

theorem meanAwayFromZero_of_nonneg {s : Int} (hs : 0 ≤ s) (n : Nat) : meanAwayFromZero s n = (2 * s + n) / (2 * n) :=
  if_pos hs

/-- R118: the rounded mean is a nearest integer, and of two equally near ones the one away from zero. -/
theorem meanAwayFromZero_nearest (s : Int) {n : Nat} (hn : 0 < n) :
    (2 * (n * meanAwayFromZero s n - s)).natAbs ≤ n ∧
      ((2 * (n * meanAwayFromZero s n - s)).natAbs = n → s.natAbs < (n * meanAwayFromZero s n).natAbs) := by
  by_cases hs : 0 ≤ s
  · have hbounds := roundedQuotient_bounds s hn
    rw [← meanAwayFromZero_of_nonneg hs] at hbounds
    omega
  · have hbounds := roundedQuotient_bounds (-s) hn
    rw [meanAwayFromZero_of_neg (by omega), mul_neg]
    omega

/-- A nearest integer to the mean lies in every interval with integer ends that holds the mean. -/
theorem meanAwayFromZero_mem_interval {s lo hi : Int} {n : Nat} (hn : 0 < n) (hlo : n * lo ≤ s) (hhi : s ≤ n * hi) :
    lo ≤ meanAwayFromZero s n ∧ meanAwayFromZero s n ≤ hi := by
  have hnear := (meanAwayFromZero_nearest s hn).1
  have hn' : (0 : Int) ≤ n := by omega
  constructor
  · by_contra hlt
    have hmul := mul_le_mul_of_nonneg_left (show meanAwayFromZero s n ≤ lo - 1 by omega) hn'
    rw [mul_sub, mul_one] at hmul
    omega
  · by_contra hlt
    have hmul := mul_le_mul_of_nonneg_left (show hi + 1 ≤ meanAwayFromZero s n by omega) hn'
    rw [mul_add, mul_one] at hmul
    omega

theorem length_mul_le_sum {l : List Int} {lo : Int} (h : ∀ v ∈ l, lo ≤ v) : l.length * lo ≤ l.sum := by
  simpa using List.card_nsmul_le_sum l lo h

theorem sum_le_length_mul {l : List Int} {hi : Int} (h : ∀ v ∈ l, v ≤ hi) : l.sum ≤ l.length * hi := by
  simpa using List.sum_le_card_nsmul l hi h

/-- Values within R of p have a rounded mean within R of p. -/
theorem mean_natAbs_sub_le {l : List Int} {p : Int} {r : Nat} (hl : l ≠ []) (h : ∀ v ∈ l, (v - p).natAbs ≤ r) :
    (meanAwayFromZero l.sum l.length - p).natAbs ≤ r := by
  have hmem := meanAwayFromZero_mem_interval (List.length_pos_of_ne_nil hl)
    (length_mul_le_sum (lo := p - r) fun v hv => by have := h v hv; omega)
    (sum_le_length_mul (hi := p + r) fun v hv => by have := h v hv; omega)
  omega

/-! ### The refinement (R116, R117) -/

variable {i : MatchInputs} {anchors : List Anchor} {kps : List Keypoint}

/-- The inliers of a registration carried out to the end. -/
def registerInliers (i : MatchInputs) (anchors : List Anchor) (kps : List Keypoint) : List Point :=
  inliers i.pred (voteGrid ((claimDisplacements i (settleClaims i anchors kps)).map (binOf i.pred)))
    (claimDisplacements i (settleClaims i anchors kps))

theorem register_support (i : MatchInputs) (anchors : List Anchor) (kps : List Keypoint) :
    (register i anchors kps).support = (registerInliers i anchors kps).length := by
  rw [register, registerInliers]

theorem register_claims (i : MatchInputs) (anchors : List Anchor) (kps : List Keypoint) :
    (register i anchors kps).claims = settleClaims i anchors kps := by
  rw [register]

/-- R116: the inliers are the displacements whose bins lie within one of the winning bin in both directions. -/
theorem inliers_eq (pred : Point) (votes : List Nat) (ds : List Point) : inliers pred votes ds = ds.filter fun d => decide
    (((d.x - pred.x) / 16 + 16 - ((winningBin votes % 32 : Nat) : Int)).natAbs ≤ 1 ∧
      ((d.y - pred.y) / 16 + 8 - ((winningBin votes / 32 : Nat) : Int)).natAbs ≤ 1) := rfl

theorem register_delta (i : MatchInputs) (anchors : List Anchor) (kps : List Keypoint) : (register i anchors kps).delta =
    ⟨meanAwayFromZero ((registerInliers i anchors kps).map (·.x)).sum (registerInliers i anchors kps).length,
      meanAwayFromZero ((registerInliers i anchors kps).map (·.y)).sum (registerInliers i anchors kps).length⟩ := by
  rw [register, registerInliers]

theorem register_reason (i : MatchInputs) (anchors : List Anchor) (kps : List Keypoint) : (register i anchors kps).reason =
    acceptance (register i anchors kps).count (register i anchors kps).support i.params.minSupport := by
  rw [register]

/-- An accepted frame has claims, and at least half of them support it. -/
theorem support_pos_of_acceptance {count support minSupport : Nat} (h : acceptance count support minSupport = .none) :
    0 < support := by
  unfold acceptance at h
  split at h
  · cases h
  · split at h
    · cases h
    · split at h
      · cases h
      · omega

theorem registerInliers_ne_nil (h : (register i anchors kps).reason = .none) : registerInliers i anchors kps ≠ [] :=
  List.ne_nil_of_length_pos (support_pos_of_acceptance ((register_reason i anchors kps).symm.trans h))

/-- R114: every inlier lies in the search window. -/
theorem registerInliers_mem_window (hm : ∀ k ∈ kps, k.matched = none)
    (hi : ∀ (n : Nat) (k : Keypoint), kps[n]? = some k → k.index = n) {d : Point} (hd : d ∈ registerInliers i anchors kps) :
    (d.x - i.pred.x).natAbs ≤ i.params.rx ∧ (d.y - i.pred.y).natAbs ≤ i.params.ry :=
  (claimsInWindow_settleClaims i anchors hm hi).displacement_mem_window (List.mem_of_mem_filter hd)

/-! ### The obligation -/

/-- Settles O60: the inliers lie in the window by O59's `ClaimsInWindow`, and `meanAwayFromZero` is a nearest integer to their mean. -/
theorem refinedDisplacementStaysInTheWindow : Obligations.RefinedDisplacementStaysInTheWindow := by
  refine ⟨fun i anchors kps _ hm hi => ?_, fun s n hn => meanAwayFromZero_nearest s hn⟩
  dsimp only
  rw [← inliers_eq, register_votes, register_claims, register_delta]
  refine ⟨register_support i anchors kps, rfl, rfl, fun hreason => ?_⟩
  have hne : registerInliers i anchors kps ≠ [] := registerInliers_ne_nil hreason
  have hwindow {d : Point} (hd : d ∈ registerInliers i anchors kps) := registerInliers_mem_window hm hi hd
  constructor
  · rw [← List.length_map (f := (·.x)) (as := registerInliers i anchors kps)]
    exact mean_natAbs_sub_le (by simpa using hne) (List.forall_mem_map.2 fun d hd => (hwindow hd).1)
  · rw [← List.length_map (f := (·.y)) (as := registerInliers i anchors kps)]
    exact mean_natAbs_sub_le (by simpa using hne) (List.forall_mem_map.2 fun d hd => (hwindow hd).2)

end Sys2Proof.Proofs
end

section
/-! PROOF. O58 (R107 to R113): which anchor a candidate searches for and claims, and that claims and matches name each other. -/

namespace Sys2Proof.Proofs

open Sys2Proof.Machine

variable {i : MatchInputs} {st : Claims} {k : Keypoint} {a : Anchor} {n q d : Nat}

/-! ### The distance (R107, R108) -/

theorem bitCount_xor (code other : Half) :
    bitCount (code ^^^ other) = (List.range 16).countP fun b => code.getLsbD b != other.getLsbD b := by
  rw [bitCount]
  exact List.countP_congr fun b _ => by rw [BitVec.getLsbD_xor]

theorem bitCount_rotateCode_xor (r : BitVec 4) (code other : Half) : bitCount (rotateCode r code ^^^ other) =
    (List.range 16).countP fun b => code.getLsbD ((b + 16 - r.toNat) % 16) != other.getLsbD b := by
  rw [bitCount_xor]
  exact List.countP_congr fun b hb => by rw [rotateCode_bit r code (List.mem_range.1 hb)]

theorem candidateDistance_eq (i : MatchInputs) (k : Keypoint) (a : Anchor) : candidateDistance i k a =
    ((List.range 16).countP fun b => k.ring.getLsbD ((b + 16 - i.roll.toNat) % 16) != a.ring.getLsbD b) +
      (List.range 16).countP fun b => k.chord.getLsbD ((b + 16 - i.roll.toNat) % 16) != a.chord.getLsbD b := by
  rw [candidateDistance, descriptorDistance, bitCount_rotateCode_xor, bitCount_rotateCode_xor]

/-! ### The search (R109 to R111) -/

/-- The anchor that the search of a candidate settles on. -/
def bestFor (i : MatchInputs) (st : Claims) (k : Keypoint) (n : Nat) (a : Anchor) : Prop :=
  bestIn (eligible i k (searchPoint i k)) (candidateDistance i k) i.params.early st.anchors n a

/-- The scan of the whole table. -/
def bestClaim (i : MatchInputs) (st : Claims) (k : Keypoint) : Option Claim :=
  scan (eligible i k (searchPoint i k)) (candidateDistance i k) i.params.early 0 none st.anchors

theorem bestClaim_spec (i : MatchInputs) (st : Claims) (k : Keypoint) :
    (bestClaim i st k = none ∧ ∀ a ∈ st.anchors, eligible i k (searchPoint i k) a = false) ∨
      ∃ n a, bestFor i st k n a ∧ bestClaim i st k = some ⟨n, candidateDistance i k a⟩ := by
  simpa [bestClaim, bestFor] using scan_finds_best (eligible i k (searchPoint i k)) (candidateDistance i k) i.params.early []
    st.anchors none (by simp) (by simp)

theorem bestFor.mem (h : bestFor i st k n a) : a ∈ st.anchors := List.mem_of_getElem? h.1.1

theorem bestFor.eligible (h : bestFor i st k n a) : eligible i k (searchPoint i k) a = true := h.1.2

theorem bestClaim_of_bestFor (h : bestFor i st k n a) : bestClaim i st k = some ⟨n, candidateDistance i k a⟩ := by
  rcases bestClaim_spec i st k with ⟨-, hnone⟩ | ⟨m, b, hb, hscan⟩
  · exact absurd (hnone a h.mem) (by simp [h.eligible])
  · obtain ⟨rfl, rfl⟩ := bestIn_unique h hb
    exact hscan

theorem exists_bestFor (ha : a ∈ st.anchors) (he : eligible i k (searchPoint i k) a = true) : ∃ n a, bestFor i st k n a := by
  rcases bestClaim_spec i st k with ⟨-, hnone⟩ | ⟨n, b, hb, -⟩
  · simp [hnone a ha] at he
  · exact ⟨n, b, hb⟩

theorem searchCandidate_of_not_eligible (h : ∀ a ∈ st.anchors, eligible i k (searchPoint i k) a = false) :
    searchCandidate i st k = st := by
  rcases bestClaim_spec i st k with ⟨hscan, -⟩ | ⟨n, b, hb, -⟩
  · rw [bestClaim] at hscan
    rw [searchCandidate, hscan]
  · exact absurd hb.eligible (by simp [h b hb.mem])

theorem searchCandidate_of_bestFor (h : bestFor i st k n a) : searchCandidate i st k =
    if candidateDistance i k a ≤ i.params.dmax then attemptClaim st k.index ⟨n, candidateDistance i k a⟩ else st := by
  have hscan := bestClaim_of_bestFor h
  rw [bestClaim] at hscan
  rw [searchCandidate, hscan]

/-! ### The claim attempt (R112) -/

/-- The claim that an anchor holds. -/
def claimAt (st : Claims) (n : Nat) : Option Claim := (st.anchors[n]?).bind fun a => a.claim

/-- The match of a candidate. -/
def matchAt (st : Claims) (q : Nat) : Option Claim := (st.keypoints[q]?).bind fun k => k.matched

theorem attemptClaim_of_unclaimed {best : Claim} (h : claimAt st best.index = none) :
    attemptClaim st q best = recordClaim q best st := by
  rw [claimAt] at h
  rw [attemptClaim, h]
  rfl

theorem attemptClaim_of_farther {best held : Claim} (h : claimAt st best.index = some held)
    (hlt : best.distance < held.distance) : attemptClaim st q best = recordClaim q best (withdrawMatch held.index st) := by
  rw [claimAt] at h
  rw [attemptClaim, h]
  exact if_pos hlt

theorem attemptClaim_of_no_farther {best held : Claim} (h : claimAt st best.index = some held)
    (hle : held.distance ≤ best.distance) : attemptClaim st q best = st := by
  rw [claimAt] at h
  rw [attemptClaim, h]
  exact if_neg (by omega)

/-- The claims in which anchor n and candidate q name each other at distance d, and candidate `unmatched` has lost its match. -/
def claimedBy (st : Claims) (n q d : Nat) (unmatched : Option Nat) : Claims :=
  ⟨st.anchors.mapIdx fun m b => if m = n then { b with claim := some ⟨q, d⟩ } else b,
    st.keypoints.mapIdx fun m k => if m = q then { k with matched := some ⟨n, d⟩ }
      else if unmatched = some m then { k with matched := none } else k⟩

theorem recordClaim_eq_claimedBy (st : Claims) (n q d : Nat) : recordClaim q ⟨n, d⟩ st = claimedBy st n q d none := by
  rw [recordClaim, updateAt_mapIdx, updateAt_mapIdx, claimedBy]
  simp

theorem recordClaim_withdrawMatch_eq_claimedBy (st : Claims) (n q d h : Nat) :
    recordClaim q ⟨n, d⟩ (withdrawMatch h st) = claimedBy st n q d (some h) := by
  rw [recordClaim, withdrawMatch, updateAt_mapIdx, updateAt_mapIdx, updateAt_mapIdx, claimedBy, List.mapIdx_mapIdx]
  congr 2
  funext m b
  rw [Function.comp_apply]
  by_cases hq : m = q
  · rw [if_pos hq, if_pos hq]
    split <;> rfl
  · simp [hq, eq_comm]

/-! ### Claims and matches name each other (R113) -/

theorem updateAt_bind {α β : Type} (l : List α) (n m : Nat) (f : α → α) (g : α → Option β) (b : Option β) (hn : n < l.length)
    (h : ∀ x, g (f x) = b) : ((updateAt l n f)[m]?).bind g = if m = n then b else (l[m]?).bind g := by
  rw [updateAt_mapIdx, List.getElem?_mapIdx]
  by_cases hm : m = n
  · subst hm
    simp [hn, h]
  · simp [hm]

theorem claimAt_recordClaim {best : Claim} (hn : best.index < st.anchors.length) (m : Nat) :
    claimAt (recordClaim q best st) m = if m = best.index then some ⟨q, best.distance⟩ else claimAt st m :=
  updateAt_bind _ _ _ _ _ _ hn fun _ => rfl

theorem matchAt_recordClaim {best : Claim} (hq : q < st.keypoints.length) (m : Nat) :
    matchAt (recordClaim q best st) m = if m = q then some best else matchAt st m :=
  updateAt_bind _ _ _ _ _ _ hq fun _ => rfl

theorem matchAt_withdrawMatch (st : Claims) (h m : Nat) :
    matchAt (withdrawMatch h st) m = if m = h then none else matchAt st m := by
  rw [matchAt, matchAt, withdrawMatch, updateAt_mapIdx, List.getElem?_mapIdx]
  by_cases hm : m = h
  · subst hm
    simp
  · simp [hm]

theorem claimAt_withdrawMatch (st : Claims) (h m : Nat) : claimAt (withdrawMatch h st) m = claimAt st m := rfl

theorem lt_of_matchAt {c : Claim} (h : matchAt st q = some c) : q < st.keypoints.length := by
  by_contra hge
  rw [matchAt, List.getElem?_eq_none (by omega)] at h
  cases h

theorem lt_of_claimAt {c : Claim} (h : claimAt st n = some c) : n < st.anchors.length := by
  by_contra hge
  rw [claimAt, List.getElem?_eq_none (by omega)] at h
  cases h

/-- R113: an anchor's claim names a candidate exactly when its match names the anchor, at the same distance. -/
def Mutual (st : Claims) : Prop :=
  ∀ q n d : Nat, matchAt st q = some ⟨n, d⟩ ↔ claimAt st n = some ⟨q, d⟩

/-- The candidate that held anchor n has lost its match; every other claim is mutual. -/
def ReleasedAt (n : Nat) (st : Claims) : Prop :=
  ∀ q m d : Nat, matchAt st q = some ⟨m, d⟩ ↔ m ≠ n ∧ claimAt st m = some ⟨q, d⟩

theorem Mutual.releasedAt_of_unclaimed (h : Mutual st) (hn : claimAt st n = none) : ReleasedAt n st := by
  intro q m d
  rw [h q m d]
  refine ⟨fun hm => ⟨?_, hm⟩, And.right⟩
  rintro rfl
  rw [hn] at hm
  cases hm

theorem Mutual.releasedAt_withdrawMatch {held : Claim} (h : Mutual st) (hn : claimAt st n = some held) :
    ReleasedAt n (withdrawMatch held.index st) := by
  intro q m d
  rw [matchAt_withdrawMatch, claimAt_withdrawMatch]
  have hheld : matchAt st held.index = some ⟨n, held.distance⟩ := (h _ _ _).2 hn
  by_cases hq : q = held.index
  · subst hq
    rw [if_pos rfl, ← h held.index m d, hheld]
    simp only [reduceCtorEq, false_iff, Option.some.injEq, Claim.mk.injEq]
    omega
  · rw [if_neg hq, h q m d]
    refine ⟨fun hm => ⟨?_, hm⟩, And.right⟩
    rintro rfl
    rw [hn] at hm
    obtain rfl := Option.some.inj hm
    exact hq rfl

theorem ReleasedAt.mutual_recordClaim {best : Claim} (h : ReleasedAt best.index st) (hn : best.index < st.anchors.length)
    (hq : q < st.keypoints.length) (hfree : matchAt st q = none) : Mutual (recordClaim q best st) := by
  intro p m d
  rw [matchAt_recordClaim hq, claimAt_recordClaim hn]
  by_cases hp : p = q
  · subst hp
    rw [if_pos rfl]
    by_cases hm : m = best.index
    · subst hm
      obtain ⟨c, e⟩ := best
      simp
    · have hnot := (h p m d).not.1 (by simp [hfree])
      rw [if_neg hm]
      simp only [Option.some.injEq]
      exact ⟨fun hb => absurd (hb ▸ rfl) hm, fun hc => absurd ⟨hm, hc⟩ hnot⟩
  · rw [if_neg hp, h p m d]
    by_cases hm : m = best.index
    · simp [hm, Ne.symm hp]
    · simp [hm]

/-! ### Every search keeps that (R112, R113) -/

/-- While claims are settled: they are mutual, at most dmax, and the lists keep their lengths. -/
structure Settling (i : MatchInputs) (anchors : List Anchor) (kps : List Keypoint) (st : Claims) : Prop where
  bothWays : Mutual st
  near : ∀ (q : Nat) (c : Claim), matchAt st q = some c → c.distance ≤ i.params.dmax
  anchors_length : st.anchors.length = anchors.length
  keypoints_length : st.keypoints.length = kps.length

variable {anchors : List Anchor} {kps : List Keypoint}

theorem updateAt_length {α : Type} (l : List α) (n : Nat) (f : α → α) : (updateAt l n f).length = l.length := by
  rw [updateAt_mapIdx, List.length_mapIdx]

/-- What a candidate without a match does: nothing, or it claims a released anchor within dmax. -/
theorem searchCandidate_claims (h : Mutual st) (i : MatchInputs) (k : Keypoint) : searchCandidate i st k = st ∨
    ∃ (best : Claim) (st' : Claims), best.distance ≤ i.params.dmax ∧ best.index < st.anchors.length ∧
      ReleasedAt best.index st' ∧ (st' = st ∨ ∃ held, st' = withdrawMatch held st) ∧
      searchCandidate i st k = recordClaim k.index best st' := by
  rcases bestClaim_spec i st k with ⟨-, hnone⟩ | ⟨n, a, hbest, -⟩
  · exact .inl (searchCandidate_of_not_eligible hnone)
  rw [searchCandidate_of_bestFor hbest]
  have hn : n < st.anchors.length := (List.getElem?_eq_some_iff.1 hbest.1.1).1
  split
  · rename_i hd
    rcases hclaim : claimAt st n with _ | held
    · exact .inr ⟨_, st, hd, hn, h.releasedAt_of_unclaimed hclaim, .inl rfl, attemptClaim_of_unclaimed hclaim⟩
    · rcases Nat.lt_or_ge (candidateDistance i k a) held.distance with hlt | hge
      · exact .inr ⟨_, _, hd, hn, h.releasedAt_withdrawMatch hclaim, .inr ⟨_, rfl⟩, attemptClaim_of_farther hclaim hlt⟩
      · exact .inl (attemptClaim_of_no_farther hclaim hge)
  · exact .inl rfl

theorem Settling.searchCandidate (h : Settling i anchors kps st) (hk : k.index < kps.length) (hfree : matchAt st k.index = none) :
    Settling i anchors kps (searchCandidate i st k) ∧
      ∀ m, m ≠ k.index → matchAt st m = none → matchAt (searchCandidate i st k) m = none := by
  rcases searchCandidate_claims h.bothWays i k with hsame | ⟨best, st', hd, hn, hreleased, hst', hclaim⟩
  · rw [hsame]
    exact ⟨h, fun _ _ hm => hm⟩
  have hlost : ∀ m, matchAt st' m = none ∨ matchAt st' m = matchAt st m := by
    intro m
    obtain rfl | ⟨held, rfl⟩ := hst'
    · exact .inr rfl
    · rw [matchAt_withdrawMatch]
      split
      · exact .inl rfl
      · exact .inr rfl
  have hlengths : st'.anchors.length = st.anchors.length ∧ st'.keypoints.length = st.keypoints.length := by
    obtain rfl | ⟨held, rfl⟩ := hst'
    · exact ⟨rfl, rfl⟩
    · exact ⟨rfl, updateAt_length _ _ _⟩
  have hunmatched : ∀ m, matchAt st m = none → matchAt st' m = none := fun m hm => (hlost m).elim id fun he => he.trans hm
  have hq : k.index < st'.keypoints.length := by rw [hlengths.2, h.keypoints_length]; exact hk
  rw [hclaim]
  refine ⟨⟨hreleased.mutual_recordClaim (hlengths.1 ▸ hn) hq (hunmatched _ hfree), fun q c hc => ?_, ?_, ?_⟩, fun m hm hnone => ?_⟩
  · rw [matchAt_recordClaim hq] at hc
    split at hc
    · obtain rfl := Option.some.inj hc
      exact hd
    · refine h.near q c ((hlost q).elim (fun hnone => ?_) fun he => he ▸ hc)
      rw [hnone] at hc
      cases hc
  · rw [recordClaim, updateAt_length, hlengths.1, h.anchors_length]
  · rw [recordClaim, updateAt_length, hlengths.2, h.keypoints_length]
  · rw [matchAt_recordClaim hq, if_neg hm]
    exact hunmatched m hnone

/-- Candidates of different places without matches, settled one after another. -/
theorem Settling.foldl : ∀ (l : List Keypoint) (st : Claims), Settling i anchors kps st → (l.map (·.index)).Nodup →
    (∀ k ∈ l, k.index < kps.length ∧ matchAt st k.index = none) → Settling i anchors kps (l.foldl (Machine.searchCandidate i) st)
  | [], _, h, _, _ => h
  | k :: l, st, h, hnodup, hl => by
    obtain ⟨hk, hrest⟩ := List.forall_mem_cons.1 hl
    obtain ⟨hnotin, hnodup⟩ := List.nodup_cons.1 hnodup
    obtain ⟨hset, hkeep⟩ := h.searchCandidate hk.1 hk.2
    refine Settling.foldl l _ hset hnodup fun k' hk' => ⟨(hrest k' hk').1, hkeep _ (fun he => hnotin ?_) (hrest k' hk').2⟩
    exact List.mem_map.2 ⟨k', hk', he⟩

theorem matchAt_of_unmatched (hm : ∀ k ∈ kps, k.matched = none) (q : Nat) : matchAt ⟨anchors, kps⟩ q = none := by
  rw [matchAt, Option.bind_eq_none_iff]
  exact fun k hk => hm k (List.mem_of_getElem? hk)

theorem claimAt_of_unclaimed (ha : ∀ a ∈ anchors, a.claim = none) (n : Nat) : claimAt ⟨anchors, kps⟩ n = none := by
  rw [claimAt, Option.bind_eq_none_iff]
  exact fun a h => ha a (List.mem_of_getElem? h)

theorem map_index_eq_range (hi : ∀ (n : Nat) (k : Keypoint), kps[n]? = some k → k.index = n) :
    kps.map (·.index) = List.range kps.length := by
  refine List.ext_getElem (by simp) fun n h _ => ?_
  rw [List.getElem_map, List.getElem_range]
  exact hi n _ (List.getElem?_eq_getElem _)

/-- R113 for a registration's claims. -/
theorem settling_settleClaims (i : MatchInputs) (ha : ∀ a ∈ anchors, a.claim = none) (hm : ∀ k ∈ kps, k.matched = none)
    (hi : ∀ (n : Nat) (k : Keypoint), kps[n]? = some k → k.index = n) :
    Settling i anchors kps (settleClaims i anchors kps) := by
  refine Settling.foldl kps _ ⟨fun q n d => ?_, fun q c hc => ?_, rfl, rfl⟩ ?_ fun k hk => ⟨?_, matchAt_of_unmatched hm _⟩
  · simp [matchAt_of_unmatched hm, claimAt_of_unclaimed ha]
  · simp [matchAt_of_unmatched hm] at hc
  · rw [map_index_eq_range hi]
    exact List.nodup_range
  · have hmem := List.mem_map_of_mem (f := (·.index)) hk
    rw [map_index_eq_range hi] at hmem
    exact List.mem_range.1 hmem

/-! ### How many (R113) -/

/-- The places of a list that hold a claim. -/
def claimPlaces (f : Nat → Option Claim) (len : Nat) : Finset Nat := (Finset.range len).filter fun n => (f n).isSome

theorem length_filter_isSome {α : Type} (g : α → Option Claim) : ∀ l : List α,
    (l.filter fun x => (g x).isSome).length = Nat.count (fun n => ((l[n]?).bind g).isSome = true) l.length
  | [] => rfl
  | x :: l => by
    rw [List.length_cons, Nat.count_succ', ← List.countP_eq_length_filter, List.countP_cons, List.countP_eq_length_filter,
      length_filter_isSome g l]
    simp

theorem length_filter_isSome_eq_card {α : Type} (g : α → Option Claim) (l : List α) :
    (l.filter fun x => (g x).isSome).length = (claimPlaces (fun n => (l[n]?).bind g) l.length).card := by
  rw [length_filter_isSome, Nat.count_eq_card_filter_range]
  rfl

/-- Claims that name places, each named back, are no more than those places. -/
theorem card_claimPlaces_le {f g : Nat → Option Claim} {lf lg : Nat}
    (hback : ∀ q n d : Nat, f q = some ⟨n, d⟩ → n < lg ∧ g n = some ⟨q, d⟩) :
    (claimPlaces f lf).card ≤ (claimPlaces g lg).card := by
  have hname : ∀ q ∈ claimPlaces f lf, ∃ c, f q = some c := fun q hq => Option.isSome_iff_exists.1 (Finset.mem_filter.1 hq).2
  refine Finset.card_le_card_of_injOn (fun q => ((f q).map (·.index)).getD 0) (fun q hq => ?_) fun q hq p hp heq => ?_
  · obtain ⟨⟨n, d⟩, hc⟩ := hname q hq
    obtain ⟨hlt, hg⟩ := hback q n d hc
    simp [claimPlaces, hc, hlt, hg]
  · obtain ⟨⟨n, d⟩, hc⟩ := hname q hq
    obtain ⟨⟨m, e⟩, hc'⟩ := hname p hp
    obtain rfl : n = m := by simpa [hc, hc'] using heq
    have hsame := (hback q n d hc).2.symm.trans (hback p n e hc').2
    exact (Claim.mk.inj (Option.some.inj hsame)).1

theorem Mutual.length_matched_eq_claimed (h : Mutual st) :
    (st.keypoints.filter fun k => k.matched.isSome).length = (st.anchors.filter fun a => a.claim.isSome).length := by
  rw [length_filter_isSome_eq_card, length_filter_isSome_eq_card]
  refine le_antisymm (card_claimPlaces_le fun q n d hc => ?_) (card_claimPlaces_le fun n q d hc => ?_)
  · exact ⟨lt_of_claimAt ((h q n d).1 hc), (h q n d).1 hc⟩
  · exact ⟨lt_of_matchAt ((h q n d).2 hc), (h q n d).2 hc⟩

/-- Every match is on an anchor of the table, so every match votes. -/
theorem Mutual.length_claimDisplacements (h : Mutual st) (i : MatchInputs) :
    (claimDisplacements i st).length = (st.keypoints.filter fun k => k.matched.isSome).length := by
  rw [claimDisplacements, List.length_filterMap_eq_countP, ← List.countP_eq_length_filter]
  refine List.countP_congr fun k hk => ?_
  obtain ⟨q, hq⟩ := List.mem_iff_getElem?.1 hk
  rcases hc : k.matched with _ | ⟨n, d⟩
  · simp
  · have hclaim := (h q n d).1 (by rw [matchAt, hq, Option.bind_some, hc])
    have hlt := lt_of_claimAt hclaim
    simp [hlt]

/-! ### The obligation -/

/-- Settles O58: `bestClaim_spec` names the anchor of a search, and `Settling` is kept by every search. -/
theorem claimsAndMatchesNameEachOther : Obligations.ClaimsAndMatchesNameEachOther := by
  refine ⟨fun i anchors kps ha hm hi => ?_, fun i anchors kps => register_claims i anchors kps, fun i st k => ?_⟩
  · have hset := settling_settleClaims i ha hm hi
    have hmatched := hset.bothWays.length_claimDisplacements i
    have hclaimed := hmatched.trans hset.bothWays.length_matched_eq_claimed
    dsimp only
    rw [register_claims, register_count, register_support]
    refine ⟨hset.bothWays, fun k hk c hc => ?_, hclaimed, hmatched, ?_, ?_, List.length_filter_le _ _⟩
    · obtain ⟨q, hq⟩ := List.mem_iff_getElem?.1 hk
      exact hset.near q c (by rw [matchAt, hq, Option.bind_some, hc])
    · rw [hclaimed, ← hset.anchors_length]
      exact List.length_filter_le _ _
    · rw [hmatched, ← hset.keypoints_length]
      exact List.length_filter_le _ _
  · intro px py isEligible differing distance examined best
    have hdistance : distance = candidateDistance i k := funext fun a => (candidateDistance_eq i k a).symm
    have heligible (a : Anchor) : isEligible a ↔ eligible i k (searchPoint i k) a = true := decide_eq_true_iff.symm
    have hbest (n : Nat) (a : Anchor) : best n a ↔ bestFor i st k n a := by
      simp only [best, examined, heligible, hdistance, bestFor, bestIn]
    clear_value distance isEligible best
    subst hdistance
    refine ⟨fun hnone => searchCandidate_of_not_eligible fun a ha => ?_, fun ⟨a, ha, he⟩ => ?_, fun n a hna => ?_⟩
    · exact Bool.eq_false_iff.2 fun he => hnone a ha ((heligible a).2 he)
    · obtain ⟨n, b, hb⟩ := exists_bestFor ha ((heligible a).1 he)
      exact ⟨n, b, (hbest n b).2 hb⟩
    · have hfor := (hbest n a).1 hna
      have hclaim : claimAt st n = a.claim := by rw [claimAt, hfor.1.1, Option.bind_some]
      rw [searchCandidate_of_bestFor hfor]
      refine ⟨fun hfar => if_neg (by omega), fun hnear => ?_⟩
      rw [if_pos hnear]
      refine ⟨fun hfree => ?_, fun held hheld => ⟨fun hlt => ?_, fun hge => ?_⟩⟩
      · rw [attemptClaim_of_unclaimed (hclaim.trans hfree)]
        exact recordClaim_eq_claimedBy st n k.index _
      · rw [attemptClaim_of_farther (hclaim.trans hheld) hlt]
        exact recordClaim_withdrawMatch_eq_claimedBy st n k.index _ held.index
      · exact attemptClaim_of_no_farther (hclaim.trans hheld) hge

end Sys2Proof.Proofs
end

section
/-! PROOF. O56 (R61 to R70): which positions are candidates, which of them are suppressed, in which order rows are decided, and what a
cell holds of the survivors offered to it. -/

namespace Sys2Proof.Proofs

open Sys2Proof.Machine

/-! ### A cell's selection (R70) -/

/-- Survivors as they are offered: in raster order. -/
def InRasterOrder (l : List Candidate) : Prop := l.Pairwise fun a b => rasterBefore a b = true

/-- R70: b gives way to a: it is weaker, or as strong and later in raster order. -/
def Outranks (a b : Candidate) : Prop :=
  b.strength < a.strength ∨ (b.strength = a.strength ∧ rasterBefore a b = true)

theorem Outranks.strength_le {a b : Candidate} (h : Outranks a b) : b.strength ≤ a.strength := by
  rcases h with hlt | ⟨heq, -⟩
  · exact hlt.le
  · exact heq.le

theorem outranks_of_rasterBefore {a b : Candidate} (hle : b.strength ≤ a.strength) (h : rasterBefore a b = true) :
    Outranks a b := (Nat.lt_or_eq_of_le hle).imp_right fun heq => ⟨heq, h⟩

theorem rasterBefore_iff (a b : Candidate) : rasterBefore a b = true ↔ a.y < b.y ∨ (a.y = b.y ∧ a.x < b.x) :=
  decide_eq_true_iff

theorem not_rasterBefore_of_rasterBefore {a b : Candidate} (h : rasterBefore a b = true) : ¬rasterBefore b a = true := by
  rw [rasterBefore_iff] at h ⊢
  omega

/-- Of survivors in raster order the weakest is the one that every other outranks. -/
theorem weakest_spec : ∀ held : List Candidate, InRasterOrder held → (held = [] ∧ weakest held = none) ∨
    ∃ d, weakest held = some d ∧ d ∈ held ∧ ∀ a ∈ held, a = d ∨ Outranks a d
  | [], _ => .inl ⟨rfl, rfl⟩
  | c :: rest, h => by
    right
    obtain ⟨hc, hrest⟩ := List.pairwise_cons.1 h
    rcases weakest_spec rest hrest with ⟨rfl, hnone⟩ | ⟨d, hd, hmem, hout⟩
    · exact ⟨c, by rw [weakest, hnone], by simp, by simp⟩
    · rw [weakest, hd]
      dsimp only
      split
      · rename_i hwins
        have hlt : c.strength < d.strength :=
          hwins.resolve_right fun hd => not_rasterBefore_of_rasterBefore (hc d hmem) hd.2
        refine ⟨c, rfl, by simp, List.forall_mem_cons.2 ⟨.inl rfl, fun a ha => .inr (.inl ?_)⟩⟩
        rcases hout a ha with rfl | hout
        · exact hlt
        · exact hlt.trans_le hout.strength_le
      · refine ⟨d, rfl, by simp [hmem], List.forall_mem_cons.2 ⟨.inr ?_, hout⟩⟩
        exact outranks_of_rasterBefore (by omega) (hc d hmem)

/-- R70: what a cell holds, and its overflow flag, once `l` has been offered to it. -/
structure CellHolds (l held : List Candidate) (flag : Bool) : Prop where
  sublist : held.Sublist l
  all : l.length ≤ 4 → held = l
  four : 4 ≤ l.length → held.length = 4
  overflow : flag = decide (4 < l.length)
  outrank : ∀ a ∈ held, ∀ b ∈ l, b ∉ held → Outranks a b

variable {l held : List Candidate} {flag : Bool} {c d : Candidate}

theorem CellHolds.length (h : CellHolds l held flag) : held.length = min 4 l.length := by
  by_cases hl : l.length ≤ 4
  · rw [h.all hl]
    omega
  · rw [h.four (by omega)]
    omega

/-- The four held do not change: the survivor offered is outranked by each of them. -/
theorem CellHolds.keep (h : CellHolds l held flag) (hl : 4 ≤ l.length) (hc : ∀ a ∈ held, Outranks a c) :
    CellHolds (l ++ [c]) held true where
  sublist := h.sublist.trans (List.sublist_append_left l [c])
  all hlen := by simp at hlen; omega
  four _ := h.four hl
  overflow := by simp; omega
  outrank a ha b hb hnot := by
    rcases List.mem_append.1 hb with hb | hb
    · exact h.outrank a ha b hb hnot
    · rw [List.mem_singleton.1 hb]
      exact hc a ha

/-- The weakest held gives its place to the survivor offered. -/
theorem CellHolds.replace (h : CellHolds l held flag) (hl : 4 ≤ l.length) (hd : d ∈ held)
    (hout : ∀ a ∈ held, a = d ∨ Outranks a d) (hlt : d.strength < c.strength) :
    CellHolds (l ++ [c]) (held.erase d ++ [c]) true where
  sublist := (List.erase_sublist.trans h.sublist).append (List.Sublist.refl [c])
  all hlen := by simp at hlen; omega
  four _ := by simp [List.length_erase_of_mem hd, h.four hl]
  overflow := by simp; omega
  outrank a ha b hb hnot := by
    have hbc : b ≠ c := fun hbc => hnot (by simp [hbc])
    have hbl : b ∈ l := by simpa [hbc] using hb
    have hberase : b ∉ held.erase d := fun hb => hnot (List.mem_append_left _ hb)
    have hbcase : b = d ∨ b ∉ held := by
      by_cases hbd : b = d
      · exact .inl hbd
      · exact .inr fun hb => hberase ((List.mem_erase_of_ne hbd).2 hb)
    rcases List.mem_append.1 ha with ha | ha
    · have haheld := List.mem_of_mem_erase ha
      rcases hbcase with rfl | hbheld
      · exact (hout a haheld).resolve_left fun hab => hberase (hab ▸ ha)
      · exact h.outrank a haheld b hbl hbheld
    · obtain rfl := List.mem_singleton.1 ha
      rcases hbcase with rfl | hbheld
      · exact .inl hlt
      · exact .inl ((h.outrank d hd b hbl hbheld).strength_le.trans_lt hlt)

theorem CellHolds.offer (h : CellHolds l held flag) (hl : InRasterOrder l) (hc : ∀ a ∈ l, rasterBefore a c = true) :
    CellHolds (l ++ [c]) (offerToCell held flag c).1 (offerToCell held flag c).2 := by
  have hlength := h.length
  rw [offerToCell]
  split
  · have hall : held = l := h.all (by omega)
    refine ⟨by rw [hall], fun _ => by rw [hall], fun hlen => by simp at hlen ⊢; omega, ?_, fun a _ b hb hnot => ?_⟩
    · rw [h.overflow]
      simp
      omega
    · exact absurd (by rwa [hall]) hnot
  · have hfour : 4 ≤ l.length := by omega
    rcases weakest_spec held (hl.sublist h.sublist) with ⟨rfl, -⟩ | ⟨d, hweakest, hmem, hout⟩
    · simp at hlength
      omega
    · rw [hweakest]
      dsimp only
      split
      · exact h.replace hfour hmem hout ‹_›
      · refine h.keep hfour fun a ha => outranks_of_rasterBefore ?_ (hc a (h.sublist.subset ha))
        rcases hout a ha with rfl | houtranks
        · omega
        · have := houtranks.strength_le
          omega

/-- R70: a cell that was empty, after all its survivors. -/
theorem cellHolds_foldl (l : List Candidate) (h : InRasterOrder l) :
    CellHolds l (l.foldl (fun held c => offerToCell held.1 held.2 c) ([], false)).1
      (l.foldl (fun held c => offerToCell held.1 held.2 c) ([], false)).2 := by
  induction l using List.reverseRecOn with
  | nil => exact ⟨List.Sublist.refl _, fun _ => rfl, by simp, rfl, by simp⟩
  | append_singleton l c ih =>
    obtain ⟨hl, -, hc⟩ := List.pairwise_append.1 h
    rw [List.foldl_append]
    exact (ih hl).offer hl fun a ha => hc a ha c (by simp)

/-! ### The rows decided by an offer (R61) -/

variable {tau w h : Nat} {rows : List (List Byte)}

/-- R61 step 3: the waiting candidates of row y that are not suppressed. -/
def survivorsOf (tau w h : Nat) (rows : List (List Byte)) (waiting : List Candidate) (y : Nat) : List Candidate :=
  (waiting.filter fun c => decide (c.y = y)).filter fun c => !suppressed tau w h rows c

/-- The survivors of a row go to their cells (R69, R70). -/
def offerSurvivors (w h : Nat) (survivors : List Candidate) (cells : List (List Candidate) × List Bool) :
    List (List Candidate) × List Bool :=
  survivors.foldl (fun acc c => offerSurvivor w h acc.1 acc.2 c) cells

theorem offerSurvivors_append (w h : Nat) (l l' : List Candidate) (cells : List (List Candidate) × List Bool) :
    offerSurvivors w h (l ++ l') cells = offerSurvivors w h l' (offerSurvivors w h l cells) := List.foldl_append

theorem decideRow_eq (tau w h : Nat) (rows : List (List Byte)) (y : Nat) (waiting : List Candidate)
    (cells : List (List Candidate) × List Bool) : decideRow tau w h rows y (waiting, cells) =
      (waiting.filter fun c => !decide (c.y = y), offerSurvivors w h (survivorsOf tau w h rows waiting y) cells) := by
  simp only [decideRow, survivorsOf, offerSurvivors, ne_eq, decide_not]

/-- Deciding one row leaves the candidates of another waiting. -/
theorem survivorsOf_of_decided {y y' : Nat} (hne : y ≠ y') (waiting : List Candidate) :
    survivorsOf tau w h rows (waiting.filter fun c => !decide (c.y = y)) y' = survivorsOf tau w h rows waiting y' := by
  refine congrArg (List.filter _) ?_
  rw [List.filter_filter]
  refine List.filter_congr fun c _ => ?_
  by_cases hc : c.y = y'
  · simp [hc, Ne.symm hne]
  · simp [hc]

/-- The candidates waiting when row n is offered. -/
def waitingAt (tau w h : Nat) (rows : List (List Byte)) (n : Nat) (pend : List Candidate) : List Candidate :=
  if 6 ≤ n then pend ++ evaluateRow tau w h rows (n - 3) else pend

/-- The survivors that the offer of row n decides. -/
def decidedAt (tau w h : Nat) (rows : List (List Byte)) (n : Nat) (waiting : List Candidate) : List Candidate :=
  if 7 ≤ n then survivorsOf tau w h rows waiting (n - 4) ++ (if n + 1 = h then survivorsOf tau w h rows waiting (h - 4) else [])
  else []

theorem offerRow_eq (tau w h : Nat) (rows : List (List Byte)) (n : Nat) (pend : List Candidate)
    (cells : List (List Candidate)) (overflow : List Bool) :
    offerRow tau w h rows (.working n pend cells overflow) = .working (n + 1)
      ((waitingAt tau w h rows n pend).filter fun c => !decide (7 ≤ n ∧ (c.y = n - 4 ∨ (n + 1 = h ∧ c.y = h - 4))))
      (offerSurvivors w h (decidedAt tau w h rows n (waitingAt tau w h rows n pend)) (cells, overflow)).1
      (offerSurvivors w h (decidedAt tau w h rows n (waitingAt tau w h rows n pend)) (cells, overflow)).2 := by
  rw [offerRow, decidedAt]
  rw [← waitingAt]
  generalize waitingAt tau w h rows n pend = waiting
  by_cases h7 : 7 ≤ n
  · by_cases hlast : n + 1 = h
    · have hrows : n - 4 ≠ h - 4 := by omega
      simp only [h7, hlast, decideRow_eq, survivorsOf_of_decided hrows, offerSurvivors_append,
        List.filter_filter, true_and, and_self, if_true]
      congr 2
      funext c
      rw [← Bool.not_or, ← Bool.decide_or]
      exact congrArg _ (decide_eq_decide.2 or_comm)
    · simp only [h7, hlast, decideRow_eq, if_true, true_and, and_false, if_false, false_and, or_false, List.append_nil]
  · simp [h7, offerSurvivors]

/-! ### Suppression (R67) -/

theorem candidateAt_area {x y : Nat} {n : Candidate} (hn : candidateAt tau w h rows x y = some n) : 3 ≤ x ∧ 3 ≤ y := by
  by_contra hout
  rw [candidateAt, if_neg] at hn
  · cases hn
  · simp only [inDetectionArea, decide_eq_true_eq]
    omega

theorem mem_neighbours {x y u v : Nat} (hu : 1 ≤ u) (hv : 1 ≤ v) : (u, v) ∈ neighbours x y ↔
    (u ≠ x ∨ v ≠ y) ∧ u ≤ x + 1 ∧ x ≤ u + 1 ∧ v ≤ y + 1 ∧ y ≤ v + 1 := by
  simp only [neighbours, List.mem_cons, Prod.mk.injEq, List.not_mem_nil, or_false]
  omega

/-- R67 for one neighbouring position. -/
def suppressedBy (tau w h : Nat) (rows : List (List Byte)) (c : Candidate) (p : Nat × Nat) : Prop :=
  ∃ n, candidateAt tau w h rows p.1 p.2 = some n ∧ (c.strength < n.strength ∨
    (c.strength = n.strength ∧ (n.y < c.y ∨ (n.y = c.y ∧ n.x < c.x))))

theorem suppressed_iff_any (c : Candidate) :
    suppressed tau w h rows c = true ↔ ∃ p ∈ neighbours c.x c.y, suppressedBy tau w h rows c p := by
  rw [suppressed, List.any_eq_true]
  refine exists_congr fun p => and_congr_right fun _ => ?_
  rw [suppressedBy]
  rcases candidateAt tau w h rows p.1 p.2 with _ | n
  · simp
  · simp [rasterBefore_iff]

/-! ### The ring (R62) and its runs (R63 to R65) -/

/-- Ring sample i of a position. -/
def ringAt (rows : List (List Byte)) (x y i : Nat) : Int :=
  lumaAt rows (x + (ringOffsets.getD i (0, 0)).1) (y + (ringOffsets.getD i (0, 0)).2)

theorem ringSamples_length (rows : List (List Byte)) (x y : Nat) : (ringSamples rows x y).length = 16 := by
  rw [ringSamples, List.length_map]
  rfl

theorem getD_ringSamples (rows : List (List Byte)) (x y : Nat) {i : Nat} (hi : i < 16) :
    (ringSamples rows x y).getD i 0 = ringAt rows x y i := by
  have hlt : i < ringOffsets.length := hi
  simp [ringSamples, ringAt, List.getD_eq_getElem?_getD, hlt]

/-- The terms of a position's ring samples, by polarity (R63, R64). -/
def termsAt (tau : Nat) (rows : List (List Byte)) (x y : Nat) (p : Polarity) : List Int :=
  ringTerms p (lumaAt rows x y) tau (ringSamples rows x y)

theorem ringTerm_termsAt (tau : Nat) (rows : List (List Byte)) (x y : Nat) (p : Polarity) (k : Nat) :
    ringTerm (termsAt tau rows x y p) k =
      if p = .bright then lumaAt rows x y - ringAt rows x y (k % 16) - tau
      else ringAt rows x y (k % 16) - lumaAt rows x y - tau := by
  have hk : k % 16 < 16 := Nat.mod_lt _ (by omega)
  have hlt : k % 16 < (ringSamples rows x y).length := by rw [ringSamples_length]; exact hk
  rw [← getD_ringSamples rows x y hk, ringTerm, termsAt, ringTerms, List.getD_eq_getElem?_getD, List.getElem?_map,
    List.getD_eq_getElem?_getD, List.getElem?_eq_getElem hlt]
  cases p
  · rfl
  · rfl

/-- No two runs of 9 samples on a ring of 16 avoid each other. -/
theorem runs_meet (a b : Nat) : ∃ i j, i < 9 ∧ j < 9 ∧ (a + i) % 16 = (b + j) % 16 := by
  by_cases hnear : (b + 16 - a % 16) % 16 < 9
  · exact ⟨(b + 16 - a % 16) % 16, 0, by omega, by omega, by omega⟩
  · exact ⟨0, (a + 16 - b % 16) % 16, by omega, by omega, by omega⟩

/-- A sample cannot be darker and brighter than the centre. -/
theorem not_bright_and_dark {x y f g len len' : Nat} (hb : RingRun (termsAt tau rows x y .bright) f len)
    (hd : RingRun (termsAt tau rows x y .dark) g len') : False := by
  obtain ⟨i, j, hi, hj, hsame⟩ := runs_meet f g
  have hbright := hb.2.2.1 i (by have := hb.1; omega)
  have hdark := hd.2.2.1 j (by have := hd.1; omega)
  rw [ringTerm_termsAt, if_pos rfl, hsame] at hbright
  rw [ringTerm_termsAt, if_neg (by simp)] at hdark
  omega

theorem strengthOf_eq_some_iff {p : Polarity} {centre : Int} {ring : List Int} (hring : ring.length = 16) (s : Nat) :
    strengthOf p centre tau ring = some s ↔ ∃ first len, RingRun (ringTerms p centre tau ring) first len ∧
      (s : Int) = min 4095 ((List.range len).map fun j => ringTerm (ringTerms p centre tau ring) (first + j)).sum := by
  have hspec := longestRun_spec (ringTerms p centre tau ring) (by rw [ringTerms, List.length_map, hring])
  have hpos {first len : Nat} (hrun : RingRun (ringTerms p centre tau ring) first len) :
      0 ≤ ((List.range len).map fun j => ringTerm (ringTerms p centre tau ring) (first + j)).sum :=
    List.sum_nonneg (List.forall_mem_map.2 fun j hj => (hrun.2.2.1 j (List.mem_range.1 hj)).le)
  rw [strengthOf]
  constructor
  · intro hs
    split at hs
    · rename_i hnine
      obtain ⟨first, len, hrun, hsum⟩ := (hspec _).1 ⟨hnine, rfl⟩
      have hnonneg := hpos hrun
      refine ⟨first, len, hrun, ?_⟩
      rw [← hsum] at hnonneg ⊢
      rw [← Option.some.inj hs]
      omega
    · cases hs
  · rintro ⟨first, len, hrun, hs⟩
    have hnonneg := hpos hrun
    obtain ⟨hnine, hsum⟩ := (hspec _).2 ⟨first, len, hrun, rfl⟩
    rw [← hsum] at hs hnonneg
    rw [if_pos hnine]
    congr 1
    omega

/-! ### Candidates (R62 to R66) -/

theorem code_eq_codeOf_iff (code : Half) (p : Nat → Bool) : code = codeOf p ↔ ∀ i, i < 16 → code.getLsbD i = p i := by
  refine ⟨fun hcode i hi => by rw [hcode, codeOf_bit p i hi], fun hbits => ?_⟩
  exact BitVec.eq_of_getLsbD_eq fun i hi => (hbits i hi).trans (codeOf_bit p i hi).symm

theorem ring_eq_ringCode_iff (rows : List (List Byte)) (x y : Nat) (code : Half) :
    code = ringCode (lumaAt rows x y) (ringSamples rows x y) ↔
      ∀ i, i < 16 → code.getLsbD i = decide (lumaAt rows x y < ringAt rows x y i) := by
  rw [ringCode, code_eq_codeOf_iff]
  exact forall₂_congr fun i hi => by rw [getD_ringSamples rows x y hi]

theorem chord_eq_chordCode_iff (rows : List (List Byte)) (x y : Nat) (code : Half) :
    code = chordCode (ringSamples rows x y) ↔
      ∀ i, i < 16 → code.getLsbD i = decide (ringAt rows x y ((i + 5) % 16) < ringAt rows x y i) := by
  rw [chordCode, code_eq_codeOf_iff]
  exact forall₂_congr fun i hi => by rw [getD_ringSamples rows x y hi, getD_ringSamples rows x y (Nat.mod_lt _ (by omega))]

/-- The strength that a position has for a polarity (R63 to R65). -/
def strengthAt (tau : Nat) (rows : List (List Byte)) (x y : Nat) (p : Polarity) : Option Nat :=
  strengthOf p (lumaAt rows x y) tau (ringSamples rows x y)

theorem strengthAt_eq_some_iff (tau : Nat) (rows : List (List Byte)) (x y : Nat) (p : Polarity) (s : Nat) :
    strengthAt tau rows x y p = some s ↔ ∃ first len, RingRun (termsAt tau rows x y p) first len ∧
      (s : Int) = min 4095 ((List.range len).map fun j => ringTerm (termsAt tau rows x y p) (first + j)).sum :=
  strengthOf_eq_some_iff (ringSamples_length rows x y) s

theorem strengthAt_bright_of_dark {x y s : Nat} (hdark : strengthAt tau rows x y .dark = some s) :
    strengthAt tau rows x y .bright = none := by
  by_contra hsome
  obtain ⟨s', hbright⟩ := Option.ne_none_iff_exists'.1 hsome
  obtain ⟨f, len, hb, -⟩ := (strengthAt_eq_some_iff ..).1 hbright
  obtain ⟨g, len', hd, -⟩ := (strengthAt_eq_some_iff ..).1 hdark
  exact not_bright_and_dark hb hd

/-- The candidate of a polarity and strength at a position. -/
def candidateOf (rows : List (List Byte)) (x y : Nat) (p : Polarity) (s : Nat) : Candidate :=
  ⟨x, y, p, s, ringCode (lumaAt rows x y) (ringSamples rows x y), chordCode (ringSamples rows x y)⟩

theorem candidateAt_eq (tau w h : Nat) (rows : List (List Byte)) (x y : Nat) : candidateAt tau w h rows x y =
    if inDetectionArea w h x y then ((strengthAt tau rows x y .bright).map (candidateOf rows x y .bright)).or
      ((strengthAt tau rows x y .dark).map (candidateOf rows x y .dark)) else none := by
  rw [candidateAt]
  dsimp only
  rw [← strengthAt, ← strengthAt]
  rcases strengthAt tau rows x y .bright with _ | s
  · rfl
  · rfl

theorem candidateAt_eq_some_iff (tau w h : Nat) (rows : List (List Byte)) (x y : Nat) (c : Candidate) :
    candidateAt tau w h rows x y = some c ↔ inDetectionArea w h x y = true ∧
      strengthAt tau rows x y c.polarity = some c.strength ∧ c = candidateOf rows x y c.polarity c.strength := by
  rw [candidateAt_eq]
  constructor
  · intro hc
    split at hc
    · refine ⟨‹_›, ?_⟩
      rcases Option.or_eq_some_iff.1 hc with hb | ⟨-, hd⟩
      · obtain ⟨s, hs, rfl⟩ := Option.map_eq_some_iff.1 hb
        exact ⟨hs, rfl⟩
      · obtain ⟨s, hs, rfl⟩ := Option.map_eq_some_iff.1 hd
        exact ⟨hs, rfl⟩
    · cases hc
  · rintro ⟨harea, hs, hc⟩
    rw [if_pos harea]
    rcases hp : c.polarity with _ | _
    · rw [hp] at hs hc
      rw [hs, Option.map_some, Option.some_or, ← hc]
    · rw [hp] at hs hc
      rw [strengthAt_bright_of_dark hs, hs, Option.map_none, Option.none_or, Option.map_some, ← hc]

theorem eq_candidateOf_iff (rows : List (List Byte)) (x y : Nat) (c : Candidate) :
    c = candidateOf rows x y c.polarity c.strength ↔ c.x = x ∧ c.y = y ∧
      c.ring = ringCode (lumaAt rows x y) (ringSamples rows x y) ∧ c.chord = chordCode (ringSamples rows x y) := by
  obtain ⟨u, v, p, s, ring, chord⟩ := c
  simp [candidateOf]

/-! ### The obligation -/

/-- Settles O56: `cellHolds_foldl` for a cell, `offerRow_eq` for the rows decided, `candidateAt_eq_some_iff` for the candidates and
`suppressed_iff_any` for suppression. -/
theorem cellKeepsItsFourStrongestSurvivors : Obligations.CellKeepsItsFourStrongestSurvivors := by
  refine ⟨fun survivors horder => ?_, fun tau w h rows n pend cells overflow => ?_, fun tau w h rows x y c => ?_,
    fun tau w h rows c => ?_⟩
  · have hcell := cellHolds_foldl survivors horder
    exact ⟨hcell.length, hcell.overflow, fun a ha => hcell.sublist.subset ha, hcell.outrank⟩
  · exact offerRow_eq tau w h rows n pend cells overflow
  · intro luma offsets centre ring term run
    have hterm : term = ringTerm (termsAt tau rows x y c.polarity) :=
      funext fun k => (ringTerm_termsAt tau rows x y c.polarity k).symm
    have hrun : run = RingRun (termsAt tau rows x y c.polarity) := by
      simp only [run, hterm]
      rfl
    rw [candidateAt_eq_some_iff, strengthAt_eq_some_iff, eq_candidateOf_iff, ring_eq_ringCode_iff, chord_eq_chordCode_iff, hrun, hterm,
      inDetectionArea, decide_eq_true_eq, forall₂_and]
    constructor
    · rintro ⟨harea, hs, hx, hy, hcodes⟩
      exact ⟨harea, hx, hy, hs, hcodes⟩
    · rintro ⟨harea, hx, hy, hs, hcodes⟩
      exact ⟨harea, hs, hx, hy, hcodes⟩
  · rw [suppressed_iff_any]
    constructor
    · rintro ⟨⟨u, v⟩, hmem, n, hn, hout⟩
      obtain ⟨hu, hv⟩ := candidateAt_area hn
      obtain ⟨hne, hnear⟩ := (mem_neighbours (by omega) (by omega)).1 hmem
      exact ⟨u, v, n, hne, hnear.1, hnear.2.1, hnear.2.2.1, hnear.2.2.2, hn, hout⟩
    · rintro ⟨u, v, n, hne, hux, hxu, hvy, hyv, hn, hout⟩
      obtain ⟨hu, hv⟩ := candidateAt_area hn
      exact ⟨(u, v), (mem_neighbours (by omega) (by omega)).2 ⟨hne, hux, hxu, hvy, hyv⟩, n, hn, hout⟩

end Sys2Proof.Proofs
end
